-- ==== Sys2Proof/Word.lean ====
section
/-!
DEFINITION. The two word types of the block: the byte that commands and frames carry, and the 16-bit
command word of the `cmd` port (R50, R80). Bits are numbered from 0 at the least significant bit (R9).
-/

namespace Sys2Proof

/-- Eight bits: a command's operand byte (R81), a frame's data byte (R31, R32). -/
abbrev Byte := BitVec 8

/-- The 16-bit command word of the `cmd` port (R50, R80). -/
abbrev Word := BitVec 16

/-- The three-bit channel mask: bit 0 Red, bit 1 Green, bit 2 White (R27, R28). -/
abbrev Mask := BitVec 3

end Sys2Proof
end

