-- ==== Sys2Proof/Config.lean ====
section
/-!
DEFINITION. What is fixed for a run and what is free. `Cfg` is the spec's configuration record of five
natural numbers (R5); `Input` is what the environment presents in one cycle (R50); `Config.envInput` is the
free value that stands for the inputs of a cycle that the state does not list (R52, R53, U11, U12, U15).
-/

namespace Sys2Proof

/-- The five implementation parameters of R5. They are constants for a whole run. -/
structure Cfg where
  /-- `F_CLK`: the frequency of `clk` in Hz. -/
  fClk : Nat
  /-- `TICK_PRESCALE`: cycles per count of the base counter. -/
  tickPrescale : Nat
  /-- `FAST_COUNTS`: base counts per fast tick. -/
  fastCounts : Nat
  /-- `SLOW_DIV`: fast ticks per slow tick. -/
  slowDiv : Nat
  /-- `BIT_CYCLES`: cycles per serial bit. -/
  bitCycles : Nat
deriving DecidableEq, Repr, Inhabited

/-- The configuration `REF` of R7, which meets every approximate rate the source quotes. -/
def Cfg.ref : Cfg :=
  { fClk := 20000000, tickPrescale := 128, fastCounts := 1042, slowDiv := 150, bitCycles := 66666 }

/-- The configuration `TEST` of R7, small enough to follow by hand. -/
def Cfg.test : Cfg :=
  { fClk := 380000, tickPrescale := 2, fastCounts := 3, slowDiv := 10, bitCycles := 4 }

/-- The configuration `TESTW` of R7: `TEST` with a wider slow period. -/
def Cfg.testw : Cfg := { Cfg.test with slowDiv := 25 }

/-- The input ports of one cycle (R50); `clk` is implicit in the step. -/
structure Input where
  /-- `rst`: synchronous reset, active 1 (R250). -/
  rst : Bool
  /-- `cmd_valid`: 1 when `cmd` holds a command to execute in this cycle (R51). -/
  cmdValid : Bool
  /-- `cmd`: the command word. -/
  cmd : Word
  /-- `rx_line`: the demodulated serial input, idle level 1 (R53). -/
  rxLine : Bool
  /-- `prov_byte`: the byte the transmit provider would return if called in this cycle (R52). -/
  provByte : Byte
deriving DecidableEq, Repr, Inhabited

/-- The inputs of a cycle that `State.inputs` does not list: a FREE VALUE with no body, applied to the number
of steps taken so far. R52 and R53 leave `prov_byte` and `rx_line` free in every cycle; R104 leaves `rst` and
the command stream to the environment. Log entry 4; safe, since no proof can learn what it is. -/
opaque Config.envInput : Nat → Input

end Sys2Proof
end

