-- ==== Sys2Proof/Syntax.lean ====
section
/-!
DEFINITION. The command set of the block, whole: one constructor of `Instr` per row of `spec/opcode_table.json`
(R83), the handler ids (R26), the reasons a word is reserved (R84), and the two outcomes of decoding (R86).
-/

namespace Sys2Proof

/-- A handler id: what a tick slot holds (R26). -/
inductive HandlerId where
  /-- `H_NONE`, value 0: an empty slot; invoking it does nothing. -/
  | hNone
  /-- `H_PWM`, value 1: the Light Controller's PWM step (R150). -/
  | hPwm
  /-- `H_IRTX`, value 2: the IR Subsystem's periodic transmit step (R196). -/
  | hIrtx
  /-- `H_EXT`, value 3: a handler outside the block, told by a strobe. -/
  | hExt
deriving DecidableEq, Repr, Inhabited

/-- Which slot's handler is invoked: `which` of R132. -/
inductive TickSlot where
  | fast
  | slow
deriving DecidableEq, Repr

/-- A channel number as the command word carries it (R82): Red 0, Green 1, White 2; 3 does not exist (R28). -/
abbrev Channel := BitVec 2

/-- Channel Red (R28). -/
abbrev Channel.red : Channel := 0#2
/-- Channel Green (R28). -/
abbrev Channel.green : Channel := 1#2
/-- Channel White (R28). -/
abbrev Channel.white : Channel := 2#2

/-- The 17 commands of R83. -/
inductive Instr where
  /-- `NOP` (R106). -/
  | nop
  /-- `TICK_INIT` (R121). -/
  | tickInit
  /-- `REG_FAST h` (R122). -/
  | regFast (h : HandlerId)
  /-- `REG_SLOW h` (R123). -/
  | regSlow (h : HandlerId)
  /-- `LIGHT_INIT` (R141). -/
  | lightInit
  /-- `SET_CHANNEL c, on` (R143). -/
  | setChannel (c : Channel) (on : Bool)
  /-- `ALL_OFF` (R145). -/
  | allOff
  /-- `SET_BRIGHT b` (R147). -/
  | setBright (b : Byte)
  /-- `IR_INIT` (R161). -/
  | irInit
  /-- `RX_ENABLE` (R176). -/
  | rxEnable
  /-- `RX_DISABLE` (R177). -/
  | rxDisable
  /-- `RX_SUSPEND` (R178). -/
  | rxSuspend
  /-- `REG_RXH p` (R179). -/
  | regRxh (p : Bool)
  /-- `REG_TXP p` (R180). -/
  | regTxp (p : Bool)
  /-- `TX_START` (R181). -/
  | txStart
  /-- `TX_STOP` (R182). -/
  | txStop
  /-- `TRANSMIT b` (R183). -/
  | transmit (b : Byte)
deriving DecidableEq, Repr, Inhabited

/-- Why a word is reserved: the cases of R84, by name. -/
inductive Reserved where
  /-- `op` is none of the 17 listed. -/
  | opcode
  /-- a format-Z command with `k != 0`. -/
  | operandNotZero
  /-- `REG_FAST` or `REG_SLOW` with `k > 3`. -/
  | handlerId
  /-- `SET_CHANNEL` with one of `k[6:2]` set. -/
  | channelBits
  /-- `SET_CHANNEL` with `k[1:0] = 3`. -/
  | channelNumber
  /-- `REG_RXH` or `REG_TXP` with `k > 1`. -/
  | hookOperand
deriving DecidableEq, Repr

/-- What decoding a word gives (R86): a command, or Reserved. -/
inductive Decoded where
  | command (i : Instr)
  | reserved (why : Reserved)
deriving DecidableEq, Repr

/-- One row of the opcode map of R83: a word `w` selects it when `w AND mask = pattern` (the spec's `match`). -/
structure OpcodeRow where
  mnemonic : String
  pattern : Word
  mask : Word
deriving DecidableEq, Repr

end Sys2Proof
end

