-- ==== Sys2Proof/WellFormed.lean ====
section
/-!
DEFINITION. The checks on terms. An instruction is well-formed when every operand has a legal value (R82): the
only operand whose type holds an illegal value is `SET_CHANNEL`'s channel, where 3 is reserved. A configuration
is well-formed when it meets the five hard constraints of R5.
-/

namespace Sys2Proof

/-- Every operand of the command has a value that R82 calls legal. -/
def Instr.wellFormed (i : Instr) : Bool :=
  match i with
  | .nop => true
  | .tickInit => true
  | .regFast _ => true
  | .regSlow _ => true
  | .lightInit => true
  | .setChannel c _ => c != 3#2
  | .allOff => true
  | .setBright _ => true
  | .irInit => true
  | .rxEnable => true
  | .rxDisable => true
  | .rxSuspend => true
  | .regRxh _ => true
  | .regTxp _ => true
  | .txStart => true
  | .txStop => true
  | .transmit _ => true

/-- The five hard constraints of R5, the premises of every rule (U16). -/
def Cfg.wellFormed (c : Cfg) : Bool :=
  decide (76000 ≤ c.fClk) && decide (1 ≤ c.tickPrescale) && decide (1 ≤ c.fastCounts) && decide (1 ≤ c.slowDiv)
    && decide (2 ≤ c.bitCycles)

end Sys2Proof
end

