-- ==== Sys2Proof/Decode.lean ====
section
/-!
DEFINITION. Decoding a command word (R81, R82, R86), total on every word and rejecting each reserved word with
the case of R84 it falls under; after it the encoder (R83, R86), written from the same formats, and the opcode
map of R83 as a list of rows. A word is presented whole on a 16-bit port, so there is no byte order (R61).
-/

namespace Sys2Proof

/-- `op = w[15:8]` (R81). -/
def opField (w : Word) : Byte := w.extractLsb' 8 8

/-- `k = w[7:0]` (R81). -/
def kField (w : Word) : Byte := w.extractLsb' 0 8

/-- The handler id with a 2-bit value (R26). -/
def HandlerId.ofBits (v : BitVec 2) : HandlerId :=
  if v = 0#2 then .hNone else if v = 1#2 then .hPwm else if v = 2#2 then .hIrtx else .hExt

/-- The 2-bit value of a handler id (R26). -/
def HandlerId.toBits (h : HandlerId) : BitVec 2 :=
  match h with
  | .hNone => 0#2
  | .hPwm => 1#2
  | .hIrtx => 2#2
  | .hExt => 3#2

/-- Format `Z`: `k[7:0]` must be 0 (R82). -/
def decodeZ (i : Instr) (k : Byte) : Decoded :=
  if k = 0#8 then .command i else .reserved .operandNotZero

/-- Format `H`: `k[7:2]` must be 0, `k[1:0] = h` (R82). -/
def decodeH (mk : HandlerId → Instr) (k : Byte) : Decoded :=
  if k.extractLsb' 2 6 = 0#6 then .command (mk (HandlerId.ofBits (k.extractLsb' 0 2))) else .reserved .handlerId

/-- Format `C`: `k[7] = on`, `k[6:2]` must be 0, `k[1:0] = c` with `c = 3` reserved (R82). -/
def decodeC (mk : Channel → Bool → Instr) (k : Byte) : Decoded :=
  if k.extractLsb' 2 5 = 0#5 then
    if k.extractLsb' 0 2 = 3#2 then .reserved .channelNumber
    else .command (mk (k.extractLsb' 0 2) (k.getLsbD 7))
  else .reserved .channelBits

/-- Format `P`: `k[7:1]` must be 0, `k[0] = p` (R82). -/
def decodeP (mk : Bool → Instr) (k : Byte) : Decoded :=
  if k.extractLsb' 1 7 = 0#7 then .command (mk (k.getLsbD 0)) else .reserved .hookOperand

/-- Format `B`: `k[7:0] = b`, every value legal (R82). -/
def decodeB (mk : Byte → Instr) (k : Byte) : Decoded := .command (mk k)

/-- `Decode` on the two fields of a word: the lines of R86 in their order. -/
def decodeFields (op k : Byte) : Decoded :=
  if op = 0x00#8 then decodeZ .nop k
  else if op = 0x10#8 then decodeZ .tickInit k
  else if op = 0x11#8 then decodeH .regFast k
  else if op = 0x12#8 then decodeH .regSlow k
  else if op = 0x20#8 then decodeZ .lightInit k
  else if op = 0x21#8 then decodeC .setChannel k
  else if op = 0x22#8 then decodeZ .allOff k
  else if op = 0x23#8 then decodeB .setBright k
  else if op = 0x30#8 then decodeZ .irInit k
  else if op = 0x31#8 then decodeZ .rxEnable k
  else if op = 0x32#8 then decodeZ .rxDisable k
  else if op = 0x33#8 then decodeZ .rxSuspend k
  else if op = 0x34#8 then decodeP .regRxh k
  else if op = 0x35#8 then decodeP .regTxp k
  else if op = 0x36#8 then decodeZ .txStart k
  else if op = 0x37#8 then decodeZ .txStop k
  else if op = 0x38#8 then decodeB .transmit k
  else .reserved .opcode

/-- `Decode(w)` of R86: total on every 16-bit word. -/
def decode (w : Word) : Decoded := decodeFields (opField w) (kField w)

/-- A word is reserved when it decodes to no command (R84). -/
def isReserved (w : Word) : Bool :=
  match decode w with
  | .command _ => false
  | .reserved _ => true

/-- The word `{op, k}` (R81). -/
def wordOf (op k : Byte) : Word := op ++ k

/-- The operand byte of format `H`, its must-be-0 bits 0 (R82). -/
def operandH (h : HandlerId) : Byte := 0#6 ++ h.toBits

/-- The operand byte of format `C`, its must-be-0 bits 0 (R82). -/
def operandC (c : Channel) (on : Bool) : Byte := BitVec.ofBool on ++ (0#5 ++ c)

/-- The operand byte of format `P`, its must-be-0 bits 0 (R82). -/
def operandP (p : Bool) : Byte := 0#7 ++ BitVec.ofBool p

/-- `Encode` of R86: `{op, k}` with the fields placed as R82 says and every must-be-0 bit 0. -/
def encode (i : Instr) : Word :=
  match i with
  | .nop => wordOf 0x00#8 0#8
  | .tickInit => wordOf 0x10#8 0#8
  | .regFast h => wordOf 0x11#8 (operandH h)
  | .regSlow h => wordOf 0x12#8 (operandH h)
  | .lightInit => wordOf 0x20#8 0#8
  | .setChannel c on => wordOf 0x21#8 (operandC c on)
  | .allOff => wordOf 0x22#8 0#8
  | .setBright b => wordOf 0x23#8 b
  | .irInit => wordOf 0x30#8 0#8
  | .rxEnable => wordOf 0x31#8 0#8
  | .rxDisable => wordOf 0x32#8 0#8
  | .rxSuspend => wordOf 0x33#8 0#8
  | .regRxh p => wordOf 0x34#8 (operandP p)
  | .regTxp p => wordOf 0x35#8 (operandP p)
  | .txStart => wordOf 0x36#8 0#8
  | .txStop => wordOf 0x37#8 0#8
  | .transmit b => wordOf 0x38#8 b

/-- The row of the opcode map of R83 that a command belongs to, its `match` and `mask` as the table prints them. -/
def rowOf (i : Instr) : OpcodeRow :=
  match i with
  | .nop => ⟨"NOP", 0x0000#16, 0xFFFF#16⟩
  | .tickInit => ⟨"TICK_INIT", 0x1000#16, 0xFFFF#16⟩
  | .regFast _ => ⟨"REG_FAST", 0x1100#16, 0xFFFC#16⟩
  | .regSlow _ => ⟨"REG_SLOW", 0x1200#16, 0xFFFC#16⟩
  | .lightInit => ⟨"LIGHT_INIT", 0x2000#16, 0xFFFF#16⟩
  | .setChannel _ _ => ⟨"SET_CHANNEL", 0x2100#16, 0xFF7C#16⟩
  | .allOff => ⟨"ALL_OFF", 0x2200#16, 0xFFFF#16⟩
  | .setBright _ => ⟨"SET_BRIGHT", 0x2300#16, 0xFF00#16⟩
  | .irInit => ⟨"IR_INIT", 0x3000#16, 0xFFFF#16⟩
  | .rxEnable => ⟨"RX_ENABLE", 0x3100#16, 0xFFFF#16⟩
  | .rxDisable => ⟨"RX_DISABLE", 0x3200#16, 0xFFFF#16⟩
  | .rxSuspend => ⟨"RX_SUSPEND", 0x3300#16, 0xFFFF#16⟩
  | .regRxh _ => ⟨"REG_RXH", 0x3400#16, 0xFFFE#16⟩
  | .regTxp _ => ⟨"REG_TXP", 0x3500#16, 0xFFFE#16⟩
  | .txStart => ⟨"TX_START", 0x3600#16, 0xFFFF#16⟩
  | .txStop => ⟨"TX_STOP", 0x3700#16, 0xFFFF#16⟩
  | .transmit _ => ⟨"TRANSMIT", 0x3800#16, 0xFF00#16⟩

/-- A word selects a row of R83: `(w AND mask) = match`. -/
def OpcodeRow.selectedBy (r : OpcodeRow) (w : Word) : Bool := w &&& r.mask == r.pattern

/-- The 17 rows of the opcode map of R83, in its order. -/
def opcodeTable : List OpcodeRow :=
  [rowOf .nop, rowOf .tickInit, rowOf (.regFast .hNone), rowOf (.regSlow .hNone), rowOf .lightInit,
    rowOf (.setChannel 0#2 false), rowOf .allOff, rowOf (.setBright 0#8), rowOf .irInit, rowOf .rxEnable]
  ++ [rowOf .rxDisable, rowOf .rxSuspend, rowOf (.regRxh false), rowOf (.regTxp false), rowOf .txStart,
    rowOf .txStop, rowOf (.transmit 0#8)]

/-- The word on the 16-bit `cmd` port for an instruction whose table bits are `w` (bit 0 the least significant
bit of the word): every bit at or above `nbits` is 0. -/
def tableWord (nbits w : Nat) : Word := BitVec.ofNat 16 (w % 2 ^ nbits)

/-- The instruction the decoder reads from the table bits `w`; none where the word is reserved. -/
def decodeTableWord (nbits w : Nat) : Option Instr :=
  match decode (tableWord nbits w) with
  | .command i => some i
  | .reserved _ => none

end Sys2Proof
end

