-- ==== Sys2Proof/Machine/State.lean ====
section
/-!
DEFINITION. The state of the block: the 36 fields of R20 (R24, R27, R30 to R35), each under the spec's name in
lower camel case, and three fields of the model's own (`cfg`, `inputs`, `cycle`; log entries 1, 3, 5). The block
has no register file, no program counter and no memory (R21, R22, R60). A counter whose range is 0 .. N-1 is a
natural number, as R20 allows; the ranges are an invariant (R36, `State.Inv`).
-/

namespace Sys2Proof
namespace Machine

/-- Everything the spec gives the block, and the model's own three fields. -/
structure State where
  /-- `tick_en` (R24): 1 once the scheduler's `initialize()` has run. -/
  tickEn : Bool
  /-- `pre_cnt` (R24): cycles since the last base count, 0 .. `TICK_PRESCALE`-1. -/
  preCnt : Nat
  /-- `base_cnt` (R24, R25): the timer's count, 0 .. `FAST_COUNTS`-1. -/
  baseCnt : Nat
  /-- `slow_cnt` (R24): fast ticks modulo `SLOW_DIV`. -/
  slowCnt : Nat
  /-- `fast_slot` (R24, R26): the fast-tick handler slot. -/
  fastSlot : HandlerId
  /-- `slow_slot` (R24, R26): the slow-tick handler slot. -/
  slowSlot : HandlerId
  /-- `light_en` (R27): while 0 the `led` pins read as 0. -/
  lightEn : Bool
  /-- `mask` (R27, R28): the active-channel mask. -/
  mask : Mask
  /-- `brightness` (R27, R29): 0 .. 100. -/
  brightness : Nat
  /-- `pwm_cnt` (R27): the tick counter modulo 100. -/
  pwmCnt : Nat
  /-- `gate` (R27): 1 while the PWM step has the outputs on. -/
  gate : Bool
  /-- `ir_en` (R30): 1 once the IR Subsystem's `initialize()` has run. -/
  irEn : Bool
  /-- `car_cnt` (R30): cycles elapsed in the current half period. -/
  carCnt : Nat
  /-- `carrier` (R30): the square wave's present level. -/
  carrier : Bool
  /-- `tx_busy` (R31): 1 from the push until the end of the stop bit. -/
  txBusy : Bool
  /-- `tx_data` (R31): the byte of the frame in flight, kept unshifted. -/
  txData : Byte
  /-- `tx_idx` (R31): which bit of the frame is on the line, 0 .. 9. -/
  txIdx : Nat
  /-- `tx_cnt` (R31): offset of the present cycle inside the present bit. -/
  txCnt : Nat
  /-- `rx_intent` (R32): the "should be receiving" flag. -/
  rxIntent : Bool
  /-- `rx_hw_en` (R32): the underlying hardware enable. -/
  rxHwEn : Bool
  /-- `rx_prev` (R32): `rx_line` in the previous cycle. -/
  rxPrev : Bool
  /-- `rx_busy` (R32): 1 while a frame is being assembled. -/
  rxBusy : Bool
  /-- `rx_idx` (R32): which bit of the incoming frame the present cycle lies in, 0 .. 9. -/
  rxIdx : Nat
  /-- `rx_cnt` (R32): offset of the present cycle inside that bit. -/
  rxCnt : Nat
  /-- `rx_shift` (R32): data bits sampled so far. -/
  rxShift : Byte
  /-- `rx_data` (R32): the last completed byte. -/
  rxData : Byte
  /-- `rxh_reg` (R33): 1 when a receive handler is registered. -/
  rxhReg : Bool
  /-- `txp_reg` (R33): 1 when a transmit provider is registered. -/
  txpReg : Bool
  /-- `ev_fast` (R34): strobe, a fast tick. -/
  evFast : Bool
  /-- `ev_slow` (R34): strobe, a slow tick. -/
  evSlow : Bool
  /-- `irq_fast` (R34): strobe, a fast tick whose slot holds `H_EXT`. -/
  irqFast : Bool
  /-- `irq_slow` (R34): strobe, a slow tick whose slot holds `H_EXT`. -/
  irqSlow : Bool
  /-- `irq_rx` (R34): strobe, a byte completed while `rxh_reg = 1`. -/
  irqRx : Bool
  /-- `prov_take` (R34): strobe, the periodic step consumed `prov_byte`. -/
  provTake : Bool
  /-- `tx_done` (R34): strobe, a frame's stop bit ended. -/
  txDone : Bool
  /-- `cmd_fault` (R35): sticky, set by a reserved word. -/
  cmdFault : Bool
  /-- The model's own: the configuration of the run (R5); no step changes it (R256). Log entry 1. -/
  cfg : Cfg
  /-- The model's own: the inputs of the coming cycles, the next cycle's first (R50). Log entry 3. -/
  inputs : List Input
  /-- The model's own: how many steps have been taken since the start of the run, so that the state is
  `post(cycle)` (R11). It only selects the free value `Config.envInput`. Log entries 4 and 5. -/
  cycle : Nat
deriving DecidableEq, Repr

/-- Reasons the machine stops with a fault: NONE. "Nothing in the block stops, traps or waits on any condition"
(R220); the one fault of the spec, `CmdFault`, sets the sticky `cmd_fault` and the run goes on (R221), so it is a
next state. Safe: no outcome of the spec is lost. Log entry 7. -/
inductive Fault where
deriving DecidableEq, Repr

/-- Reasons the model gives no next state. -/
inductive Refusal where
  /-- Raised by an arm of `exec` for an instruction without a meaning; no arm of this model raises it. Safe. -/
  | notModelled (mnemonic : String)
  /-- Raised by `step` when `State.cfg` violates a hard constraint of R5: "the model does not define it and a
  claim must exclude it" (93_implementation_defined.md U16). Safe: no behaviour is claimed there. Log entry 2. -/
  | configOutOfRange
deriving DecidableEq, Repr

/-- `ResetState` of R40 under configuration `c`: every field 0, `H_NONE` in both slots, except `rx_prev = 1`.
The model's own fields: no input listed, no step taken. -/
def State.resetWith (c : Cfg) : State :=
  { tickEn := false, preCnt := 0, baseCnt := 0, slowCnt := 0, fastSlot := .hNone, slowSlot := .hNone,
    lightEn := false, mask := 0#3, brightness := 0, pwmCnt := 0, gate := false,
    irEn := false, carCnt := 0, carrier := false,
    txBusy := false, txData := 0#8, txIdx := 0, txCnt := 0,
    rxIntent := false, rxHwEn := false, rxPrev := true, rxBusy := false, rxIdx := 0, rxCnt := 0,
    rxShift := 0#8, rxData := 0#8,
    rxhReg := false, txpReg := false,
    evFast := false, evSlow := false, irqFast := false, irqSlow := false, irqRx := false, provTake := false,
    txDone := false,
    cmdFault := false,
    cfg := c, inputs := [], cycle := 0 }

/-- The machine right after its first reset cycle, `post(0)` of a run (R108, R250). The configuration is `REF`
of R7: DESIGN CHOICE, log entry 1; statements use `State.resetWith` for every configuration. -/
def State.reset : State := State.resetWith Cfg.ref

end Machine
end Sys2Proof
end

