-- ==== Sys2Proof/Machine/Operands.lean ====
section
/-!
DEFINITION. Operand helpers: writing one bit of a bit vector (used by `SET_CHANNEL`, R143, and by the receiver's
sampling, R201), the clamp of `SET_BRIGHT` (R147), and the constants derived from the configuration (R6).
-/

namespace Sys2Proof
namespace Machine

/-- `v[i] <- b`; the other bits keep their values, and a position beyond the width changes nothing. -/
def writeBit {n : Nat} (v : BitVec n) (i : Nat) (b : Bool) : BitVec n :=
  if b then v ||| (1#n <<< i) else v &&& ~~~(1#n <<< i)

/-- `BRIGHT_MAX` (R6). -/
def brightMax : Nat := 100

/-- `PWM_MOD` (R6). -/
def pwmMod : Nat := 100

/-- The value `SET_BRIGHT b` stores: `min(b, 100)` (R147). -/
def clampBrightness (b : Byte) : Nat := min b.toNat brightMax

/-- `CARRIER_HALF = (F_CLK / 38000) / 2`, both divisions rounding toward zero (R6, R160). -/
def carrierHalf (c : Cfg) : Nat := c.fClk / 38000 / 2

/-- `MID = BIT_CYCLES / 2`, the receiver's sample offset inside a bit (R6). -/
def sampleMid (c : Cfg) : Nat := c.bitCycles / 2

end Machine
end Sys2Proof
end

