-- ==== Sys2Proof/Machine/Flags.lean ====
section
/-!
DEFINITION. The one-bit status fields (R23): the strobes, cleared at the start of every step (R102), and the
sticky fault flag (R35). The block has no arithmetic condition codes.
-/

namespace Sys2Proof
namespace Machine

/-- `ClearStrobes` (R102): the seven strobe fields 0, every other field unchanged. -/
def clearStrobes (s : State) : State :=
  { s with evFast := false, evSlow := false, irqFast := false, irqSlow := false, irqRx := false,
           provTake := false, txDone := false }

/-- `ev_fast <- 1` (R130). -/
def strobeFast (s : State) : State := { s with evFast := true }

/-- `ev_slow <- 1` (R131). -/
def strobeSlow (s : State) : State := { s with evSlow := true }

/-- `irq_fast <- 1` (R132). -/
def strobeIrqFast (s : State) : State := { s with irqFast := true }

/-- `irq_slow <- 1` (R132). -/
def strobeIrqSlow (s : State) : State := { s with irqSlow := true }

/-- `irq_rx <- 1` (R204). -/
def strobeIrqRx (s : State) : State := { s with irqRx := true }

/-- `prov_take <- 1` (R196). -/
def strobeProvTake (s : State) : State := { s with provTake := true }

/-- `tx_done <- 1` (R190). -/
def strobeTxDone (s : State) : State := { s with txDone := true }

/-- `cmd_fault <- 1` (R35); only reset clears it. -/
def setCmdFault (s : State) : State := { s with cmdFault := true }

end Machine
end Sys2Proof
end

