-- ==== Sys2Proof/Machine/Ops.lean ====
section
/-!
DEFINITION. The operations that more than one command or engine calls: taking the one fault of the block (R221),
`TickInit` (R121), `RxHwDisable` (R187), `TxPush` (R188), and reset (R250). There is no memory to read or write
(R60). Taking a fault saves nothing and there is no return from one (R228, R229).
-/

namespace Sys2Proof
namespace Machine

/-- `raise CmdFault` (R10, R221): `cmd_fault <- 1` and the command has no other effect. The run goes on. -/
def raiseCmdFault (s : State) : State := setCmdFault s

/-- `TickInit` (R121), called by `TICK_INIT`, `LIGHT_INIT` and `IR_INIT`: idempotent, no counter and no slot
touched. -/
def startTicks (s : State) : State := { s with tickEn := true }

/-- `RxHwDisable` (R187): the receiver hardware off, a frame being received abandoned. -/
def rxHwDisable (s : State) : State := { s with rxHwEn := false, rxBusy := false }

/-- The writes of a successful push (R188): the byte in the transmitter, its start bit on the line. -/
def startFrame (b : Byte) (s : State) : State :=
  { s with txBusy := true, txData := b, txIdx := 0, txCnt := 0 }

/-- `TxPush(b)` (R188): dropped silently when the transmitter is busy or not initialised. -/
def txPush (b : Byte) (s : State) : State :=
  if s.irEn = true ∧ s.txBusy = false then startFrame b s else s

/-- `rx_intent`, `rx_hw_en` both 1: the writes of `RX_ENABLE` (R176). -/
def rxEnableBoth (s : State) : State := { s with rxIntent := true, rxHwEn := true }

/-- A cycle with `rst = 1` (R250): every field of the spec at its reset value (R40). The configuration, the
input stream and the step count are the model's own and are no part of `ResetState`. -/
def resetBlock (s : State) : State :=
  { State.resetWith s.cfg with inputs := s.inputs, cycle := s.cycle }

end Machine
end Sys2Proof
end

