-- ==== Sys2Proof/Machine/Control.lean ====
section
/-!
DEFINITION. The command that belongs to no engine: `NOP` (R106).
-/

namespace Sys2Proof
namespace Machine

/-- `NOP` (R106): no field changes. -/
def execNop (s : State) : Host.Outcome State Fault Refusal := .next s

end Machine
end Sys2Proof
end

