-- ==== Sys2Proof/Machine/IrCarrier.lean ====
section
/-!
DEFINITION. The IR carrier generator (43_ir_carrier.md): the command `IR_INIT` and the engine procedure
`CarrierAdvance`.
-/

namespace Sys2Proof
namespace Machine

/-- `car_cnt <- n` (R163). -/
def setCarCnt (n : Nat) (s : State) : State := { s with carCnt := n }

/-- `carrier <- 1 - carrier` (R163). -/
def toggleCarrier (s : State) : State := { s with carrier := !s.carrier }

/-- `CarrierAdvance` (R163), the third sub-step: the carrier toggles every `CARRIER_HALF` cycles. -/
def carrierAdvance (s : State) : State :=
  if s.irEn then
    if s.carCnt = carrierHalf s.cfg - 1 then toggleCarrier (setCarCnt 0 s) else setCarCnt (s.carCnt + 1) s
  else s

/-- `IR_INIT` (R161): `TickInit`, then `ir_en <- 1`. -/
def execIrInit (s : State) : Host.Outcome State Fault Refusal :=
  .next { startTicks s with irEn := true }

end Machine
end Sys2Proof
end

