-- ==== Sys2Proof/Machine/IrFramer.lean ====
section
/-!
DEFINITION. The IR framer (44_ir_framer.md): the transmitter (R190, R191), the periodic transmit step (R196), the
receiver (R198 to R204) and the commands `RX_ENABLE`, `RX_DISABLE`, `RX_SUSPEND`, `REG_RXH`, `REG_TXP`,
`TX_START`, `TX_STOP`, `TRANSMIT`.
-/

namespace Sys2Proof
namespace Machine

/-- `rx_hw_en <- 1` (R191). -/
def setRxHwEn (s : State) : State := { s with rxHwEn := true }

/-- `TxReadyHandler` (R191): receive is re-enabled if the "should be receiving" flag is set. -/
def txReadyHandler (s : State) : State := if s.rxIntent then setRxHwEn s else s

/-- `tx_cnt <- n` (R190). -/
def setTxCnt (n : Nat) (s : State) : State := { s with txCnt := n }

/-- `tx_idx <- n` (R190). -/
def setTxIdx (n : Nat) (s : State) : State := { s with txIdx := n }

/-- `tx_busy <- 0 ; tx_idx <- 0` (R190); `tx_data` keeps the byte. -/
def endFrame (s : State) : State := { s with txBusy := false, txIdx := 0 }

/-- The end of a bit time (R190): the next bit, or after the stop bit the end of the frame with `tx_done` and the
transmit-ready handler (90_conflicts.md C1: the event is the end of the frame). -/
def txNextBit (s : State) : State :=
  if s.txIdx = 9 then txReadyHandler (strobeTxDone (endFrame s)) else setTxIdx (s.txIdx + 1) s

/-- `TxAdvance` (R190), the first sub-step. -/
def txAdvance (s : State) : State :=
  if s.txBusy then
    if s.txCnt = s.cfg.bitCycles - 1 then txNextBit (setTxCnt 0 s) else setTxCnt (s.txCnt + 1) s
  else s

/-- `IrPeriodicStep(prov)` (R196): with a provider registered, receive is suspended, the provider's byte taken
and pushed; otherwise nothing. -/
def irPeriodicStep (prov : Byte) (s : State) : State :=
  if s.irEn = true ∧ s.txpReg = true then txPush prov (strobeProvTake (rxHwDisable s)) else s

/-- The writes of `RxComplete` to the receiver (R202): the byte drained into `rx_data` (R203), the receiver free. -/
def rxDrain (s : State) : State :=
  { s with rxData := s.rxShift, rxBusy := false, rxIdx := 0, rxCnt := 0 }

/-- `RxComplete` (R202): the drain, then `irq_rx` if a receive handler is registered (R204). -/
def rxComplete (s : State) : State := if s.rxhReg then strobeIrqRx (rxDrain s) else rxDrain s

/-- `rx_idx <- i ; rx_cnt <- n` (R198). -/
def setRxPos (i n : Nat) (s : State) : State := { s with rxIdx := i, rxCnt := n }

/-- The receiver's bit clock (R198): the next offset, or at the end of a bit time the next bit. -/
def rxCount (s : State) : State :=
  if s.rxCnt = s.cfg.bitCycles - 1 then setRxPos (s.rxIdx + 1) 0 s else setRxPos s.rxIdx (s.rxCnt + 1) s

/-- `rx_shift[i] <- line` (R198, R201). -/
def storeRxBit (i : Nat) (line : Bool) (s : State) : State := { s with rxShift := writeBit s.rxShift i line }

/-- A data bit sampled in the middle of its bit time (R198, R201): `rx_shift[rx_idx - 1] <- line` for bits 1 to 8;
the start bit is not re-checked and the stop bit is not examined. -/
def rxStore (line : Bool) (s : State) : State :=
  if 1 ≤ s.rxIdx ∧ s.rxIdx ≤ 8 then storeRxBit (s.rxIdx - 1) line s else s

/-- What the receiver does at the middle of a bit (R198): store a data bit; at bit 9 complete the frame. -/
def rxSample (line : Bool) (s : State) : State :=
  if s.rxCnt = sampleMid s.cfg then
    if s.rxIdx = 9 then rxComplete s else rxStore line s
  else s

/-- `rx_busy <- 1` (R198). -/
def setRxBusy (s : State) : State := { s with rxBusy := true }

/-- A start edge (R199): the line was 1 and is 0. -/
def rxStart (line : Bool) (s : State) : State :=
  if s.rxPrev = true ∧ line = false then setRxPos 0 0 (setRxBusy s) else s

/-- The enabled receiver's part of `RxAdvance` (R198). -/
def rxEngine (line : Bool) (s : State) : State :=
  if s.irEn = true ∧ s.rxHwEn = true then
    if s.rxBusy then rxSample line (rxCount s) else rxStart line s
  else s

/-- `rx_prev <- line` (R198). -/
def setRxPrev (line : Bool) (s : State) : State := { s with rxPrev := line }

/-- `RxAdvance` (R198), the second sub-step; `rx_prev` follows the line in every cycle, enabled or not. -/
def rxAdvance (line : Bool) (s : State) : State := setRxPrev line (rxEngine line s)

/-- `RX_ENABLE` (R176): `rx_intent <- 1`, `rx_hw_en <- 1`. -/
def execRxEnable (s : State) : Host.Outcome State Fault Refusal := .next (rxEnableBoth s)

/-- `RX_DISABLE` (R177): `rx_intent <- 0`, then `RxHwDisable`. -/
def execRxDisable (s : State) : Host.Outcome State Fault Refusal :=
  .next (rxHwDisable { s with rxIntent := false })

/-- `RX_SUSPEND` (R178): `RxHwDisable`; `rx_intent` unchanged. -/
def execRxSuspend (s : State) : Host.Outcome State Fault Refusal := .next (rxHwDisable s)

/-- `REG_RXH p` (R179): `rxh_reg <- p`. -/
def execRegRxh (p : Bool) (s : State) : Host.Outcome State Fault Refusal := .next { s with rxhReg := p }

/-- `REG_TXP p` (R180): `txp_reg <- p`. -/
def execRegTxp (p : Bool) (s : State) : Host.Outcome State Fault Refusal := .next { s with txpReg := p }

/-- `TX_START` (R181): `slow_slot <- H_IRTX`. -/
def execTxStart (s : State) : Host.Outcome State Fault Refusal := .next { s with slowSlot := .hIrtx }

/-- `TX_STOP` (R182): `slow_slot <- H_NONE`; no transmitter field touched. -/
def execTxStop (s : State) : Host.Outcome State Fault Refusal := .next { s with slowSlot := .hNone }

/-- `TRANSMIT b` (R183): `TxPush(b)`. -/
def execTransmit (b : Byte) (s : State) : Host.Outcome State Fault Refusal := .next (txPush b s)

end Machine
end Sys2Proof
end

