-- ==== Sys2Proof/Machine/LightController.lean ====
section
/-!
DEFINITION. The Light Controller (42_light_controller.md): the commands `LIGHT_INIT`, `SET_CHANNEL`, `ALL_OFF`,
`SET_BRIGHT` and the engine procedure `PwmStep`.
-/

namespace Sys2Proof
namespace Machine

/-- `PwmStep` (R150): count modulo 100, then the wrap test, then the equality test, in this order
(90_conflicts.md C2: the gate moves on events). -/
def pwmStep (s : State) : State :=
  let n := (s.pwmCnt + 1) % pwmMod
  let opened := if n = 0 then true else s.gate
  { s with pwmCnt := n, gate := if n = s.brightness then false else opened }

/-- `LIGHT_INIT` (R141): `TickInit`, the pins driven, the PWM step in the fast slot. -/
def execLightInit (s : State) : Host.Outcome State Fault Refusal :=
  .next { startTicks s with lightEn := true, fastSlot := .hPwm }

/-- `SET_CHANNEL c, on` (R143): `mask[c] <- on`. Channel 3 does not exist (R28) and its word is reserved, so a
term with channel 3, which no word decodes to, raises `CmdFault` as R143 says of it (DEDUCED, log entry 8). -/
def execSetChannel (c : Channel) (on : Bool) (s : State) : Host.Outcome State Fault Refusal :=
  if c = 3#2 then .next (raiseCmdFault s) else .next { s with mask := writeBit s.mask c.toNat on }

/-- `ALL_OFF` (R145): `mask <- 0b000`. -/
def execAllOff (s : State) : Host.Outcome State Fault Refusal := .next { s with mask := 0#3 }

/-- `SET_BRIGHT b` (R147): `brightness <- min(b, 100)`; the gate and the PWM counter untouched. -/
def execSetBright (b : Byte) (s : State) : Host.Outcome State Fault Refusal :=
  .next { s with brightness := clampBrightness b }

end Machine
end Sys2Proof
end

