-- ==== Sys2Proof/Machine/TickScheduler.lean ====
section
/-!
DEFINITION. The Tick Scheduler (41_tick_scheduler.md): the commands `TICK_INIT`, `REG_FAST`, `REG_SLOW` and the
engine procedures `Invoke`, `SlowTick`, `FastTick`, `TickAdvance`.
-/

namespace Sys2Proof
namespace Machine

/-- The strobe of a slot's external handler (R132): `irq_fast` from the fast slot, `irq_slow` from the slow slot. -/
def pulseIrq (which : TickSlot) (s : State) : State :=
  match which with
  | .fast => strobeIrqFast s
  | .slow => strobeIrqSlow s

/-- `Invoke(h, which, prov)` (R132): call the handler a slot holds, at once and to completion. -/
def invoke (h : HandlerId) (which : TickSlot) (prov : Byte) (s : State) : State :=
  match h with
  | .hNone => s
  | .hPwm => pwmStep s
  | .hIrtx => irPeriodicStep prov s
  | .hExt => pulseIrq which s

/-- `SlowTick` (R131): the strobe, then the slow slot's handler. -/
def slowTick (prov : Byte) (s : State) : State := invoke s.slowSlot .slow prov (strobeSlow s)

/-- `slow_cnt <- (slow_cnt + 1) mod SLOW_DIV` (R130). -/
def countSlow (s : State) : State := { s with slowCnt := (s.slowCnt + 1) % s.cfg.slowDiv }

/-- "When the counter wraps to zero" (R130): the slow tick. -/
def slowTickIfWrapped (prov : Byte) (s : State) : State := if s.slowCnt = 0 then slowTick prov s else s

/-- `FastTick` (R130): the strobe, the fast slot's handler, the counter, and when it wraps the slow tick. -/
def fastTick (prov : Byte) (s : State) : State :=
  slowTickIfWrapped prov (countSlow (invoke s.fastSlot .fast prov (strobeFast s)))

/-- `pre_cnt <- n` (R128). -/
def setPreCnt (n : Nat) (s : State) : State := { s with preCnt := n }

/-- `base_cnt <- n` (R128). -/
def setBaseCnt (n : Nat) (s : State) : State := { s with baseCnt := n }

/-- One count of the base counter (R128): its wrap is the fast tick. -/
def baseAdvance (prov : Byte) (s : State) : State :=
  if s.baseCnt = s.cfg.fastCounts - 1 then fastTick prov (setBaseCnt 0 s) else setBaseCnt (s.baseCnt + 1) s

/-- `TickAdvance` (R128), the fourth sub-step. -/
def tickAdvance (prov : Byte) (s : State) : State :=
  if s.tickEn then
    if s.preCnt = s.cfg.tickPrescale - 1 then baseAdvance prov (setPreCnt 0 s) else setPreCnt (s.preCnt + 1) s
  else s

/-- `TICK_INIT` (R121): `tick_en <- 1`. -/
def execTickInit (s : State) : Host.Outcome State Fault Refusal := .next (startTicks s)

/-- `REG_FAST h` (R122): `fast_slot <- h`, last write wins. -/
def execRegFast (h : HandlerId) (s : State) : Host.Outcome State Fault Refusal := .next { s with fastSlot := h }

/-- `REG_SLOW h` (R123): `slow_slot <- h`, last write wins. -/
def execRegSlow (h : HandlerId) (s : State) : Host.Outcome State Fault Refusal := .next { s with slowSlot := h }

end Machine
end Sys2Proof
end

