-- ==== Sys2Proof/Machine/Dispatch.lean ====
section
/-!
DEFINITION. `Exec(S, c)` (R105): one arm per command, each a direct call of its meaning.
-/

namespace Sys2Proof
namespace Machine

/-- `Exec` of R105 on a decoded command. -/
def exec (i : Instr) (s : State) : Host.Outcome State Fault Refusal :=
  match i with
  | .nop => Sys2Proof.Machine.execNop s
  | .tickInit => Sys2Proof.Machine.execTickInit s
  | .regFast h => Sys2Proof.Machine.execRegFast h s
  | .regSlow h => Sys2Proof.Machine.execRegSlow h s
  | .lightInit => Sys2Proof.Machine.execLightInit s
  | .setChannel c on => Sys2Proof.Machine.execSetChannel c on s
  | .allOff => Sys2Proof.Machine.execAllOff s
  | .setBright b => Sys2Proof.Machine.execSetBright b s
  | .irInit => Sys2Proof.Machine.execIrInit s
  | .rxEnable => Sys2Proof.Machine.execRxEnable s
  | .rxDisable => Sys2Proof.Machine.execRxDisable s
  | .rxSuspend => Sys2Proof.Machine.execRxSuspend s
  | .regRxh p => Sys2Proof.Machine.execRegRxh p s
  | .regTxp p => Sys2Proof.Machine.execRegTxp p s
  | .txStart => Sys2Proof.Machine.execTxStart s
  | .txStop => Sys2Proof.Machine.execTxStop s
  | .transmit b => Sys2Proof.Machine.execTransmit b s

end Machine
end Sys2Proof
end

