-- ==== Sys2Proof/Machine/Cycle.lean ====
section
/-!
DEFINITION. One clock cycle, `Step(Cfg, S, in)` of R100: reading the inputs of the cycle, the four engine sub-steps
in the order of R101, and the command sub-step. `Machine/Step.lean` only calls `cycleStep`.
-/

namespace Sys2Proof
namespace Machine

/-- The inputs of the coming cycle (R50): the first listed ones, else the free value of the environment
(R52, R53, R104; log entries 3 and 4). -/
def currentInput (s : State) : Input :=
  match s.inputs with
  | [] => Config.envInput s.cycle
  | inp :: _ => inp

/-- The inputs of the cycle have been taken: the list moves on, one more step is counted. The spec's 36 fields
are not touched. -/
def consumeInput (s : State) : State := { s with inputs := s.inputs.tail, cycle := s.cycle + 1 }

/-- The four engine sub-steps of R100 after the strobes are cleared: `S4` from `S`. -/
def engines (inp : Input) (s : State) : State :=
  tickAdvance inp.provByte (carrierAdvance (rxAdvance inp.rxLine (txAdvance (clearStrobes s))))

/-- The command sub-step (R100, R105): a decoded command is executed, a reserved word raises `CmdFault` (R84,
R221), and without `cmd_valid` nothing happens and `cmd` is ignored (R51). -/
def commandStep (inp : Input) (s : State) : Host.Outcome State Fault Refusal :=
  if inp.cmdValid then
    match decode inp.cmd with
    | .command i => exec i s
    | .reserved _ => .next (raiseCmdFault s)
  else .next s

/-- `Step(Cfg, S, in)` (R100), the inputs given. -/
def stepWith (inp : Input) (s : State) : Host.Outcome State Fault Refusal :=
  if inp.rst then .next (resetBlock s) else commandStep inp (engines inp s)

/-- One step of the machine: the inputs of the cycle are taken, then `Step` of R100. A configuration outside
the constraints of R5 is refused (U16). -/
def cycleStep (s : State) : Host.Outcome State Fault Refusal :=
  if s.cfg.wellFormed then stepWith (currentInput s) (consumeInput s) else .refused .configOutOfRange

/-- The inputs of a script line that says nothing of `rx_line` and `prov_byte` (R92): idle line, byte 0x00. -/
def idleInput : Input := { rst := false, cmdValid := false, cmd := 0#16, rxLine := true, provByte := 0#8 }

/-- The inputs `inp` with the command word `w` presented and no reset (R51). -/
def presentWord (w : Word) (inp : Input) : Input := { inp with rst := false, cmdValid := true, cmd := w }

/-- The next cycle presents the command word `w`; its other inputs stay as listed, or are those of a script
line (R92) where no input is listed. -/
def loadWord (w : Word) (s : State) : State :=
  match s.inputs with
  | [] => { s with inputs := [presentWord w idleInput] }
  | inp :: rest => { s with inputs := presentWord w inp :: rest }

end Machine
end Sys2Proof
end

