-- ==== Sys2Proof/Machine/Ports.lean ====
section
/-!
DEFINITION. The output ports (R54), each a function of the state at the end of the cycle alone: `TxLine` (R55),
`Led` (R56), `tx_ready`, `tick_count`, and the observable `ir_mod` (R167), which is no port of the block.
-/

namespace Sys2Proof
namespace Machine

/-- `TxLine(S)` (R55): idle 1; start bit 0; data bit `tx_idx - 1`; stop bit 1. (`tx_idx` is at most 9, R36; an index
above 9, which no run reaches, reads as the stop bit: log entry 9.) -/
def txLine (s : State) : Bool :=
  if s.txBusy = false then true
  else if s.txIdx = 0 then false
  else if s.txIdx ≤ 8 then s.txData.getLsbD (s.txIdx - 1)
  else true

/-- `Led(S)` (R56): the mask while the Light Controller is initialised and the gate is open, else 0b000. -/
def led (s : State) : Mask := if s.lightEn = true ∧ s.gate = true then s.mask else 0#3

/-- `tx_ready` (R54): 1 when `ir_en = 1` and `tx_busy = 0`. -/
def txReady (s : State) : Bool := s.irEn && !s.txBusy

/-- `tick_count` (R25, R54): `base_cnt`. -/
def tickCount (s : State) : Nat := s.baseCnt

/-- `ir_mod` (R167): what the external gate computes, `carrier AND TxLine`, without inversion. -/
def irMod (s : State) : Bool := s.carrier && txLine s

/-- The fourteen output ports of R54 in its order. -/
structure Outputs where
  carrier : Bool
  txLine : Bool
  led : Mask
  fastTick : Bool
  slowTick : Bool
  irqFast : Bool
  irqSlow : Bool
  irqRx : Bool
  rxByte : Byte
  provTake : Bool
  txDone : Bool
  txReady : Bool
  tickCount : Nat
  cmdFault : Bool
deriving DecidableEq, Repr

/-- The outputs in a state (R54). -/
def outputs (s : State) : Outputs :=
  { carrier := s.carrier, txLine := txLine s, led := led s, fastTick := s.evFast, slowTick := s.evSlow,
    irqFast := s.irqFast, irqSlow := s.irqSlow, irqRx := s.irqRx, rxByte := s.rxData, provTake := s.provTake,
    txDone := s.txDone, txReady := txReady s, tickCount := tickCount s, cmdFault := s.cmdFault }

end Machine
end Sys2Proof
end

