-- ==== Sys2Proof/Machine/Step.lean ====
section
/-!
DEFINITION. The machine's one step, and where the next command word stands. The block fetches nothing (R22): a
command is on the `cmd` port in the cycle that executes it (R51), so "where step fetches its next instruction" is
the first record of `State.inputs` (log entry 6).
-/

namespace Sys2Proof
namespace Machine

/-- One cycle of `clk` (R100). -/
def step (s : State) : Host.Outcome State Fault Refusal := cycleStep s

/-- The state with the command word of the table bits `w` presented in the next cycle. -/
def State.withFetchWord (s : State) (nbits w : Nat) : State := loadWord (tableWord nbits w) s

end Machine
end Sys2Proof
end

