-- ==== Sys2Proof/Machine/Script.lean ====
section
/-!
DEFINITION. How a program for the block is written (30_encoding.md section 4): the mnemonic syntax (R90), the
pseudo-commands (R91), command scripts as the inputs they stand for (R92), and the environment premise `ECHO d` of
R92 and R208. Nothing in the step depends on this file.
-/

namespace Sys2Proof
namespace Machine

/-- The operand name of a handler id (R90). -/
def handlerText (h : HandlerId) : String :=
  match h with
  | .hNone => "NONE"
  | .hPwm => "PWM"
  | .hIrtx => "IRTX"
  | .hExt => "EXT"

/-- The operand name of a channel (R90); channel 3, which does not exist, is written as its number. -/
def channelText (c : Channel) : String :=
  if c = Channel.red then "RED" else if c = Channel.green then "GREEN" else if c = Channel.white then "WHITE"
  else "3"

/-- An operand `on` or `p` (R90). -/
def bitText (b : Bool) : String := if b then "1" else "0"

/-- A command written as R90 says: the mnemonic, then its operands separated by commas. -/
def asmText (i : Instr) : String :=
  match i with
  | .nop => "NOP"
  | .tickInit => "TICK_INIT"
  | .regFast h => "REG_FAST " ++ handlerText h
  | .regSlow h => "REG_SLOW " ++ handlerText h
  | .lightInit => "LIGHT_INIT"
  | .setChannel c on => "SET_CHANNEL " ++ channelText c ++ ", " ++ bitText on
  | .allOff => "ALL_OFF"
  | .setBright b => "SET_BRIGHT " ++ toString b.toNat
  | .irInit => "IR_INIT"
  | .rxEnable => "RX_ENABLE"
  | .rxDisable => "RX_DISABLE"
  | .rxSuspend => "RX_SUSPEND"
  | .regRxh p => "REG_RXH " ++ bitText p
  | .regTxp p => "REG_TXP " ++ bitText p
  | .txStart => "TX_START"
  | .txStop => "TX_STOP"
  | .transmit b => "TRANSMIT " ++ toString b.toNat

/-- The six pseudo-commands of R91. -/
inductive Pseudo where
  /-- `CH_ON c`. -/
  | chOn (c : Channel)
  /-- `CH_OFF c`. -/
  | chOff (c : Channel)
  /-- `UNREG_FAST`. -/
  | unregFast
  /-- `UNREG_SLOW`. -/
  | unregSlow
  /-- `UNREG_RXH`. -/
  | unregRxh
  /-- `UNREG_TXP`. -/
  | unregTxp
deriving DecidableEq, Repr

/-- The one real command a pseudo-command expands to (R91). -/
def expandPseudo (p : Pseudo) : Instr :=
  match p with
  | .chOn c => .setChannel c true
  | .chOff c => .setChannel c false
  | .unregFast => .regFast .hNone
  | .unregSlow => .regSlow .hNone
  | .unregRxh => .regRxh false
  | .unregTxp => .regTxp false

/-- A line of a command script (R92). -/
inductive ScriptLine where
  /-- `RESET`: one cycle with `rst = 1`. -/
  | reset
  /-- A command: one cycle with `cmd_valid = 1` and its word. -/
  | command (i : Instr)
  /-- A pseudo-command: the cycle of its expansion. -/
  | pseudo (p : Pseudo)
  /-- `WAIT n`: `n` cycles without a command. -/
  | wait (n : Nat)
  /-- `RXBITS`: as many cycles without a command as there are bits, the line at each bit in turn. -/
  | rxBits (bits : List Bool)
  /-- `PROV b`: takes no cycle, from the next cycle on `prov_byte = b`. -/
  | prov (b : Byte)
  /-- `RXIDLE v`: takes no cycle, from the next cycle on `rx_line = v` where no `RXBITS` covers it. -/
  | rxIdle (v : Bool)
deriving DecidableEq, Repr

/-- The inputs a script stands for, cycle by cycle, with the present `prov_byte` and idle level (R92). -/
def scriptInputsFrom (provByte : Byte) (idle : Bool) (script : List ScriptLine) : List Input :=
  let quiet : Input := { idleInput with rxLine := idle, provByte := provByte }
  match script with
  | [] => []
  | .reset :: rest => { quiet with rst := true } :: scriptInputsFrom provByte idle rest
  | .command i :: rest => presentWord (encode i) quiet :: scriptInputsFrom provByte idle rest
  | .pseudo p :: rest => presentWord (encode (expandPseudo p)) quiet :: scriptInputsFrom provByte idle rest
  | .wait n :: rest => List.replicate n quiet ++ scriptInputsFrom provByte idle rest
  | .rxBits bits :: rest => bits.map (fun b => { quiet with rxLine := b }) ++ scriptInputsFrom provByte idle rest
  | .prov b :: rest => scriptInputsFrom b idle rest
  | .rxIdle v :: rest => scriptInputsFrom provByte v rest

/-- The inputs of a script from its first cycle: `prov_byte = 0x00` and `rx_line = 1` until a line says otherwise (R92). -/
def scriptInputs (script : List ScriptLine) : List Input := scriptInputsFrom 0x00#8 true script

/-- The state with a script's inputs to come: a program is loaded from outside the machine (log entry 6). -/
def State.withScript (s : State) (script : List ScriptLine) : State := { s with inputs := scriptInputs script }

/-- `ECHO d` on the inputs of one cycle (R92, R208): the script's `rx_line` ANDed with the `tx_line` of `d + 1` cycles
ago. `lines` holds the `tx_line` of the cycles before, the latest first; a cycle before 0 counts as 1. -/
def echoInput (d : Nat) (lines : List Bool) (inp : Input) : Input :=
  { inp with rxLine := inp.rxLine && (lines[d]?).getD true }

/-- A run on the listed inputs in an environment that echoes `tx_line` into `rx_line` with delay `d` (R208); `lines` as
in `echoInput`. -/
def runEcho (d : Nat) (ins : List Input) (lines : List Bool) (s : State) : Host.Outcome State Fault Refusal :=
  match ins with
  | [] => .next s
  | inp :: rest =>
    match step { s with inputs := [echoInput d lines inp] } with
    | .next t => runEcho d rest (txLine t :: lines) t
    | .fault r => .fault r
    | .refused r => .refused r

end Machine
end Sys2Proof
end

