-- ==== Sys2Proof/Safety.lean ====
section
/-!
DEFINITION. The terms that claims about the block use: runs (R108), the laws of R36 and the ranges of the fields as
an invariant, safe runs (no reserved word presented, R221), the ten-bit frame (R192), and the premises on the
inputs of the coming cycles.
-/

namespace Sys2Proof
namespace Machine

/-- `n` steps from `s`, stopping at the first refusal. -/
def run (n : Nat) (s : State) : Host.Outcome State Fault Refusal :=
  match n with
  | 0 => .next s
  | k + 1 =>
    match run k s with
    | .next t => step t
    | .fault r => .fault r
    | .refused r => .refused r

/-- The next `n` cycles have listed inputs, and each of them satisfies `p`. -/
abbrev State.nextInputs (s : State) (n : Nat) (p : Input → Prop) : Prop :=
  n ≤ s.inputs.length ∧ ∀ inp ∈ s.inputs.take n, p inp

/-- The cycle presents the command `i` (R51). -/
abbrev presents (inp : Input) (i : Instr) : Prop := inp.cmdValid = true ∧ decode inp.cmd = .command i

/-- The cycle presents no reserved word: the premise of R221 for a safe run. -/
abbrev noReservedWord (inp : Input) : Prop := inp.cmdValid = true → isReserved inp.cmd = false

/-- Items 1 to 6 and 8 of R36, and no others. -/
structure State.Laws36 (s : State) : Prop where
  rxBusy_enabled : s.rxBusy = true → s.rxHwEn = true ∧ s.irEn = true
  txBusy_enabled : s.txBusy = true → s.irEn = true
  irEn_off : s.irEn = false → s.carCnt = 0 ∧ s.carrier = false ∧ s.txBusy = false ∧ s.rxBusy = false
  tickEn_off : s.tickEn = false → s.preCnt = 0 ∧ s.baseCnt = 0 ∧ s.slowCnt = 0 ∧ s.pwmCnt = 0 ∧ s.gate = false
  ranges : s.brightness ≤ 100 ∧ s.pwmCnt ≤ 99 ∧ s.txIdx ≤ 9 ∧ s.rxIdx ≤ 9
  strobes : (s.irqFast = true → s.evFast = true) ∧ (s.irqSlow = true → s.evSlow = true) ∧
    (s.evSlow = true → s.evFast = true)
  enables : (s.lightEn = true → s.tickEn = true) ∧ (s.irEn = true → s.tickEn = true)

/-- The ranges of the counters that the configuration bounds (R24, R30, R31, R32). -/
structure State.CounterRanges (s : State) : Prop where
  preCnt_lt : s.preCnt < s.cfg.tickPrescale
  baseCnt_lt : s.baseCnt < s.cfg.fastCounts
  slowCnt_lt : s.slowCnt < s.cfg.slowDiv
  carCnt_lt : s.carCnt < carrierHalf s.cfg
  txCnt_lt : s.txCnt < s.cfg.bitCycles
  rxCnt_lt : s.rxCnt < s.cfg.bitCycles

/-- The invariant of the block: a configuration within R5, the laws of R36, the counter ranges, and the one fact
that makes them inductive: a receiver position in bit 9 lies before the middle of that bit, because the frame
completes there (R202). -/
structure State.Inv (s : State) : Prop where
  cfg_ok : s.cfg.wellFormed = true
  laws : s.Laws36
  counters : s.CounterRanges
  rx_last_bit : s.rxIdx = 9 → s.rxCnt < sampleMid s.cfg

/-- Two states agree on all 36 fields of the spec (R20) and on the configuration; the input stream and the step
count may differ. -/
abbrev sameBlock (s t : State) : Prop := t = { s with inputs := t.inputs, cycle := t.cycle }

/-- The next step ends the stop bit of the frame in flight (R190): the transmit-ready event. -/
abbrev frameEnds (s : State) : Prop := s.txBusy = true ∧ s.txIdx = 9 ∧ s.txCnt = s.cfg.bitCycles - 1

/-- The next step wraps `base_cnt` (R128): the fast tick. -/
abbrev fastTickDue (s : State) : Prop :=
  s.tickEn = true ∧ s.preCnt = s.cfg.tickPrescale - 1 ∧ s.baseCnt = s.cfg.fastCounts - 1

/-- The next step's fast tick wraps `slow_cnt` (R130): the slow tick. -/
abbrev slowTickDue (s : State) : Prop := fastTickDue s ∧ (s.slowCnt + 1) % s.cfg.slowDiv = 0

/-- The receiver's enables as `RxAdvance` of the next step sees them: the transmit-ready handler runs before it
(R103 item 4). -/
abbrev receiverOn (s : State) : Prop :=
  s.irEn = true ∧ (s.rxHwEn = true ∨ (frameEnds s ∧ s.rxIntent = true))

/-- The next step reaches the middle of the stop bit of an incoming frame (R202): the receive-complete event. -/
abbrev byteCompletes (s : State) : Prop :=
  receiverOn s ∧ s.rxBusy = true ∧ s.rxIdx = 9 ∧ s.rxCnt + 1 = sampleMid s.cfg

/-- The ten bits of the frame of byte `b`, bit 0 the start bit: `(1, b, 0)` of R192. -/
def frameBits (b : Byte) : BitVec 10 := 1#1 ++ (b ++ 0#1)

/-- `PwmStep` called `k` times. -/
def pwmSteps (k : Nat) (s : State) : State :=
  match k with
  | 0 => s
  | j + 1 => pwmStep (pwmSteps j s)

end Machine
end Sys2Proof
end

