-- ==== Sys2Proof/Certificates/Slice0/Obligations.lean ====
section
/-!
DEFINITION. The statements for the provers, each a proposition about the model that formalises rules of `spec/`.
-/

open Sys2Proof Sys2Proof.Machine

/-! ## Encoding (30_encoding.md) -/

/-- R86, whole: the lines of `Decode`, and the two round trips of `Encode`. -/
def Obligations.DecodeFollowsRule86AndEncodeInvertsIt : Prop :=
  (∀ (op : Byte) (i : Instr),
      (op, i) ∈ [(0x00#8, Instr.nop), (0x10#8, .tickInit), (0x20#8, .lightInit), (0x22#8, .allOff),
        (0x30#8, .irInit), (0x31#8, .rxEnable), (0x32#8, .rxDisable), (0x33#8, .rxSuspend),
        (0x36#8, .txStart), (0x37#8, .txStop)] →
      decode (wordOf op 0#8) = .command i ∧ ∀ k : Byte, k ≠ 0#8 → isReserved (wordOf op k) = true) ∧
  (∀ k : Byte,
      (k.toNat ≤ 3 →
        decode (wordOf 0x11#8 k) = .command (.regFast (HandlerId.ofBits (k.extractLsb' 0 2))) ∧
        decode (wordOf 0x12#8 k) = .command (.regSlow (HandlerId.ofBits (k.extractLsb' 0 2)))) ∧
      (3 < k.toNat → isReserved (wordOf 0x11#8 k) = true ∧ isReserved (wordOf 0x12#8 k) = true)) ∧
  (∀ k : Byte,
      (k.extractLsb' 2 5 = 0#5 ∧ k.extractLsb' 0 2 ≠ 3#2 →
        decode (wordOf 0x21#8 k) = .command (.setChannel (k.extractLsb' 0 2) (k.getLsbD 7))) ∧
      (¬(k.extractLsb' 2 5 = 0#5 ∧ k.extractLsb' 0 2 ≠ 3#2) → isReserved (wordOf 0x21#8 k) = true)) ∧
  (∀ k : Byte,
      (k.toNat ≤ 1 → decode (wordOf 0x34#8 k) = .command (.regRxh (k.getLsbD 0)) ∧
        decode (wordOf 0x35#8 k) = .command (.regTxp (k.getLsbD 0))) ∧
      (1 < k.toNat → isReserved (wordOf 0x34#8 k) = true ∧ isReserved (wordOf 0x35#8 k) = true)) ∧
  (∀ k : Byte, decode (wordOf 0x23#8 k) = .command (.setBright k) ∧
      decode (wordOf 0x38#8 k) = .command (.transmit k)) ∧
  (∀ op k : Byte, op ∉ [0x00#8, 0x10#8, 0x11#8, 0x12#8, 0x20#8, 0x21#8, 0x22#8, 0x23#8, 0x30#8, 0x31#8, 0x32#8,
      0x33#8, 0x34#8, 0x35#8, 0x36#8, 0x37#8, 0x38#8] → isReserved (wordOf op k) = true) ∧
  (∀ i : Instr, i.wellFormed = true → decode (encode i) = .command i) ∧
  (∀ (w : Word) (i : Instr), decode w = .command i → encode i = w ∧ i.wellFormed = true)

/-- R84: which words are reserved, and what executing one does: `cmd_fault` and nothing else, the engines' sub-steps
of the cycle standing as they are (`consumeInput` is about the model's own fields, log entries 3 and 5). -/
def Obligations.ReservedWordsFaultAndChangeNothingElse : Prop :=
  (∀ w : Word, isReserved w = true ↔
    (opField w ∉ [0x00#8, 0x10#8, 0x11#8, 0x12#8, 0x20#8, 0x21#8, 0x22#8, 0x23#8, 0x30#8, 0x31#8, 0x32#8,
        0x33#8, 0x34#8, 0x35#8, 0x36#8, 0x37#8, 0x38#8] ∨
      (opField w ∈ [0x00#8, 0x10#8, 0x20#8, 0x22#8, 0x30#8, 0x31#8, 0x32#8, 0x33#8, 0x36#8, 0x37#8] ∧
        kField w ≠ 0#8) ∨
      (opField w ∈ [0x11#8, 0x12#8] ∧ 3 < (kField w).toNat) ∨
      (opField w = 0x21#8 ∧ ((kField w).extractLsb' 2 5 ≠ 0#5 ∨ (kField w).extractLsb' 0 2 = 3#2)) ∨
      (opField w ∈ [0x34#8, 0x35#8] ∧ 1 < (kField w).toNat))) ∧
  (∀ s : State, s.cfg.wellFormed = true → (currentInput s).rst = false → (currentInput s).cmdValid = true →
    isReserved (currentInput s).cmd = true →
    step s = .next { engines (currentInput s) (consumeInput s) with cmdFault := true })

/-- The opcode map (section 2 of 30_encoding.md): a word decodes to a command exactly when it selects that command's
row, with the extra condition on `SET_CHANNEL`; no word selects two rows. -/
def Obligations.DecodedWordSelectsItsTableRow : Prop :=
  (∀ (w : Word) (i : Instr), decode w = .command i → (rowOf i).selectedBy w = true) ∧
  (∀ (w : Word) (i : Instr), (rowOf i).selectedBy w = true →
    ((rowOf i).mnemonic = "SET_CHANNEL" → w.extractLsb' 0 2 ≠ 3#2) →
    ∃ j, decode w = .command j ∧ rowOf j = rowOf i) ∧
  (∀ (w : Word) (r r' : OpcodeRow), r ∈ opcodeTable → r' ∈ opcodeTable → r.selectedBy w = true →
    r'.selectedBy w = true → r = r')

/-- Words written out from the encodings of R83 decode to the commands they stand for. -/
def Obligations.WordsWrittenFromTheTableDecode : Prop :=
  decode 0x0000#16 = .command .nop ∧ decode 0x1103#16 = .command (.regFast .hExt) ∧
  decode 0x2181#16 = .command (.setChannel Channel.green true) ∧ decode 0x231E#16 = .command (.setBright 30#8) ∧
  decode 0x3000#16 = .command .irInit ∧ decode 0x3401#16 = .command (.regRxh true) ∧
  decode 0x38A5#16 = .command (.transmit 0xA5#8)

/-- R91: the six pseudo-commands and the words they stand for. -/
def Obligations.PseudoCommandsExpandToTheirWords : Prop :=
  (∀ c : Channel, c ≠ 3#2 → expandPseudo (.chOn c) = .setChannel c true ∧
    (encode (expandPseudo (.chOn c))).toNat = 0x2180 + c.toNat ∧ expandPseudo (.chOff c) = .setChannel c false ∧
    (encode (expandPseudo (.chOff c))).toNat = 0x2100 + c.toNat) ∧
  (expandPseudo .unregFast = .regFast .hNone ∧ encode (expandPseudo .unregFast) = 0x1100#16) ∧
  (expandPseudo .unregSlow = .regSlow .hNone ∧ encode (expandPseudo .unregSlow) = 0x1200#16) ∧
  (expandPseudo .unregRxh = .regRxh false ∧ encode (expandPseudo .unregRxh) = 0x3400#16) ∧
  (expandPseudo .unregTxp = .regTxp false ∧ encode (expandPseudo .unregTxp) = 0x3500#16)

/-! ## The step (40_step.md) and reset (70_reset_and_hazards.md) -/

/-- R100: the step is reset, or the four engine sub-steps after the strobes are cleared and then the command. What is
said of `inputs`, `cycle` and `cfg` is about the model's own fields (log entries 1, 3, 5, 11). -/
def Obligations.StepRunsSubStepsThenDecodedCommand : Prop :=
  ∀ (s : State) (inp : Input), s.cfg.wellFormed = true → inp = currentInput s →
    (inp.rst = true →
      step s = .next { State.resetWith s.cfg with inputs := s.inputs.tail, cycle := s.cycle + 1 }) ∧
    (inp.rst = false →
      ∀ s4 : State,
        s4 = tickAdvance inp.provByte (carrierAdvance (rxAdvance inp.rxLine (txAdvance (clearStrobes
          { s with inputs := s.inputs.tail, cycle := s.cycle + 1 })))) →
        (∀ i, inp.cmdValid = true → decode inp.cmd = .command i → step s = exec i s4) ∧
        (inp.cmdValid = true → isReserved inp.cmd = true → step s = .next { s4 with cmdFault := true }) ∧
        (inp.cmdValid = false → step s = .next s4))

/-- The interface of this phase (log entry 6): the word of a well-formed command placed by `withFetchWord` is the command
that the next cycle presents, without reset. -/
def Obligations.PlacedWordIsPresentedInTheNextCycle : Prop :=
  ∀ (s : State) (i : Instr), i.wellFormed = true →
    presents (currentInput (s.withFetchWord 16 (encode i).toNat)) i ∧
    (currentInput (s.withFetchWord 16 (encode i).toNat)).rst = false

/-- Every cycle completes: with a configuration within R5 the step gives a next state, which keeps the configuration
and has taken one record of the input stream. -/
def Obligations.EveryCycleCompletes : Prop :=
  ∀ s : State, s.cfg.wellFormed = true →
    ∃ t, step s = .next t ∧ t.cfg = s.cfg ∧ t.inputs = s.inputs.tail ∧ t.cycle = s.cycle + 1

/-- The model's refusal (93_implementation_defined.md U16, log entry 2): exactly the configurations outside the
five constraints of R5 are refused. -/
def Obligations.ConfigurationOutsideConstraintsIsRefused : Prop :=
  ∀ s : State, step s = .refused .configOutOfRange ↔
    ¬(76000 ≤ s.cfg.fClk ∧ 1 ≤ s.cfg.tickPrescale ∧ 1 ≤ s.cfg.fastCounts ∧ 1 ≤ s.cfg.slowDiv ∧ 2 ≤ s.cfg.bitCycles)

/-- R40 and R250: a cycle with `rst = 1` gives the reset values in all 36 fields, whatever the state and the command;
`sameBlock` says so again, with the model's own `cfg` kept (log entry 11). -/
def Obligations.ResetCycleGivesResetState : Prop :=
  ∀ s : State, s.cfg.wellFormed = true → (currentInput s).rst = true →
    ∃ t, step s = .next t ∧
      t.tickEn = false ∧ t.preCnt = 0 ∧ t.baseCnt = 0 ∧ t.slowCnt = 0 ∧ t.fastSlot = .hNone ∧ t.slowSlot = .hNone ∧
      t.lightEn = false ∧ t.mask = 0#3 ∧ t.brightness = 0 ∧ t.pwmCnt = 0 ∧ t.gate = false ∧
      t.irEn = false ∧ t.carCnt = 0 ∧ t.carrier = false ∧
      t.txBusy = false ∧ t.txData = 0#8 ∧ t.txIdx = 0 ∧ t.txCnt = 0 ∧
      t.rxIntent = false ∧ t.rxHwEn = false ∧ t.rxPrev = true ∧ t.rxBusy = false ∧ t.rxIdx = 0 ∧ t.rxCnt = 0 ∧
      t.rxShift = 0#8 ∧ t.rxData = 0#8 ∧ t.rxhReg = false ∧ t.txpReg = false ∧
      t.evFast = false ∧ t.evSlow = false ∧ t.irqFast = false ∧ t.irqSlow = false ∧ t.irqRx = false ∧
      t.provTake = false ∧ t.txDone = false ∧ t.cmdFault = false ∧ sameBlock (State.resetWith s.cfg) t

/-- R252: the outputs in `ResetState`, under every configuration. -/
def Obligations.OutputsInResetState : Prop :=
  ∀ c : Cfg,
    outputs (State.resetWith c) =
      { carrier := false, txLine := true, led := 0#3, fastTick := false, slowTick := false, irqFast := false,
        irqSlow := false, irqRx := false, rxByte := 0x00#8, provTake := false, txDone := false, txReady := false,
        tickCount := 0, cmdFault := false } ∧
    irMod (State.resetWith c) = false

/-- R251: after reset the block is inert until commanded, except that `rx_prev` follows `rx_line`. (`inputs` and `cycle`
are the model's own fields, log entries 3 and 5.) -/
def Obligations.BlockStaysInResetStateUntilCommanded : Prop :=
  ∀ (c : Cfg) (ins : List Input) (n : Nat), c.wellFormed = true → n ≤ ins.length →
    (∀ inp ∈ ins.take n, inp.rst = false ∧ inp.cmdValid = false) →
    run n { State.resetWith c with inputs := ins } =
      .next { State.resetWith c with
        rxPrev := (((ins.take n).getLast?).map Input.rxLine).getD true, inputs := ins.drop n, cycle := n }

/-- Clearing the strobes is the first action of every step (40_step.md section 1), so what they were is never read. -/
def Obligations.StrobesAreClearedFirstAndNeverRead : Prop := ∀ s : State, step (clearStrobes s) = step s

/-- R34 and R102: each strobe is 0 after reset, `ClearStrobes` writes the seven strobes and nothing else, and after a
step without reset a strobe is 1 exactly when its event happened in that step. -/
def Obligations.StrobesShowExactlyTheEventsOfTheStep : Prop :=
  (∀ c : Cfg, clearStrobes (State.resetWith c) = State.resetWith c) ∧
  (∀ s : State,
    clearStrobes s = { s with evFast := false, evSlow := false, irqFast := false, irqSlow := false, irqRx := false,
                              provTake := false, txDone := false }) ∧
  ∀ s t : State, (currentInput s).rst = false → step s = .next t →
    (t.evFast = true ↔ fastTickDue s) ∧
    (t.evSlow = true ↔ slowTickDue s) ∧
    (t.irqFast = true ↔ fastTickDue s ∧ s.fastSlot = .hExt) ∧
    (t.irqSlow = true ↔ slowTickDue s ∧ s.slowSlot = .hExt) ∧
    (t.txDone = true ↔ frameEnds s) ∧
    (t.irqRx = true ↔ byteCompletes s ∧ s.rxhReg = true) ∧
    (t.provTake = true ↔ s.irEn = true ∧ s.txpReg = true ∧
      ((fastTickDue s ∧ s.fastSlot = .hIrtx) ∨ (slowTickDue s ∧ s.slowSlot = .hIrtx)))

/-- R35: `cmd_fault` is set by a reserved word and never cleared except by reset. -/
def Obligations.FaultFlagIsSetByReservedWordsAndClearedByResetOnly : Prop :=
  (∀ c : Cfg, (State.resetWith c).cmdFault = false) ∧
  ∀ s t : State, step s = .next t →
    (t.cmdFault = true ↔
      (currentInput s).rst = false ∧
        (s.cmdFault = true ∨ ((currentInput s).cmdValid = true ∧ isReserved (currentInput s).cmd = true)))

/-! ## Commands (files 40 to 44) -/

/-- R106 `NOP`: encoding, no effect, and a cycle with it differs in nothing from a cycle without a command. -/
def Obligations.NopChangesNothing : Prop :=
  encode .nop = 0x0000#16 ∧ (∀ k : Byte, k ≠ 0#8 → isReserved (wordOf 0x00#8 k) = true) ∧
  (∀ s : State, exec .nop s = .next s) ∧
  (∀ (s : State) (inp : Input) (rest : List Input), s.inputs = inp :: rest → inp.cmdValid = true →
    inp.cmd = 0x0000#16 → step s = step { s with inputs := { inp with cmdValid := false } :: rest })

/-- `TICK_INIT`, `REG_FAST`, `REG_SLOW`: the whole next state of each, and that no command stops the scheduler. -/
def Obligations.TickSchedulerCommandsComplete : Prop :=
  ∀ s : State,
    exec .tickInit s = .next { s with tickEn := true } ∧
    (s.tickEn = true → exec .tickInit s = .next s) ∧
    (∀ h, exec (.regFast h) s = .next { s with fastSlot := h }) ∧
    (∀ h, exec (.regSlow h) s = .next { s with slowSlot := h }) ∧
    (∀ i t, exec i s = .next t → s.tickEn = true → t.tickEn = true)

/-- R141 `LIGHT_INIT`. -/
def Obligations.LightInitCompletes : Prop :=
  encode .lightInit = 0x2000#16 ∧ (∀ k : Byte, k ≠ 0#8 → isReserved (wordOf 0x20#8 k) = true) ∧
  (∀ s : State, exec .lightInit s = .next { s with tickEn := true, lightEn := true, fastSlot := .hPwm }) ∧
  (∀ s : State, s.tickEn = true → s.lightEn = true → exec .lightInit s = .next { s with fastSlot := .hPwm }) ∧
  (∀ s t : State, exec .lightInit s = .next t → exec .tickInit t = .next t) ∧
  (∀ s t : State, exec .tickInit s = .next t → exec .lightInit t = exec .lightInit s) ∧
  (∀ s : State, s.lightEn = false → led s = 0#3) ∧
  (∀ c t, exec .lightInit (State.resetWith c) = .next t → led t = 0#3)

/-- R143 `SET_CHANNEL`: one bit of the mask, the others kept; the pin follows at once. -/
def Obligations.SetChannelWritesOneMaskBit : Prop :=
  (∀ (c : Channel) (on : Bool), c ≠ 3#2 →
    (encode (.setChannel c on)).toNat = 0x2100 + (if on then 0x80 else 0) + c.toNat) ∧
  (∀ k : Byte, (k.extractLsb' 0 2 = 3#2 ∨ k.extractLsb' 2 5 ≠ 0#5) → isReserved (wordOf 0x21#8 k) = true) ∧
  (∀ (s : State) (c : Channel) (on : Bool), c ≠ 3#2 →
    ∃ m : Mask, exec (.setChannel c on) s = .next { s with mask := m } ∧
      m.getLsbD c.toNat = on ∧ (∀ j, j ≠ c.toNat → m.getLsbD j = s.mask.getLsbD j) ∧
      (s.mask.getLsbD c.toNat = on → m = s.mask) ∧
      (s.lightEn = true → s.gate = true → (led { s with mask := m }).getLsbD c.toNat = on) ∧
      (s.gate = false → led { s with mask := m } = 0#3))

/-- No word decodes to `SET_CHANNEL` with channel 3; the model's choice for that term (log entry 8) is that it raises
`CmdFault`, as its word would. -/
def Obligations.SetChannelWithChannelThreeFaults : Prop :=
  (∀ (w : Word) (on : Bool), decode w ≠ .command (.setChannel 3#2 on)) ∧
  ∀ (s : State) (on : Bool), exec (.setChannel 3#2 on) s = .next { s with cmdFault := true }

/-- R145 `ALL_OFF`. -/
def Obligations.AllOffClearsTheMask : Prop :=
  encode .allOff = 0x2200#16 ∧ (∀ k : Byte, k ≠ 0#8 → isReserved (wordOf 0x22#8 k) = true) ∧
  (∀ s : State, exec .allOff s = .next { s with mask := 0#3 } ∧ led { s with mask := 0#3 } = 0#3)

/-- R147 `SET_BRIGHT`: the clamp, and that the pins cannot tell a value above 99 from 100. -/
def Obligations.SetBrightStoresTheClampedValue : Prop :=
  (∀ b : Byte, encode (.setBright b) = wordOf 0x23#8 b ∧ decode (wordOf 0x23#8 b) = .command (.setBright b)) ∧
  (∀ (s : State) (b : Byte), exec (.setBright b) s = .next { s with brightness := min b.toNat 100 }) ∧
  (∀ (s : State) (v : Nat), 100 ≤ v →
    pwmStep { s with brightness := v } = { pwmStep { s with brightness := 100 } with brightness := v })

/-- R161 `IR_INIT`. -/
def Obligations.IrInitCompletes : Prop :=
  encode .irInit = 0x3000#16 ∧ (∀ k : Byte, k ≠ 0#8 → isReserved (wordOf 0x30#8 k) = true) ∧
  (∀ s : State, exec .irInit s = .next { s with tickEn := true, irEn := true }) ∧
  (∀ s : State, s.tickEn = true → s.irEn = true → exec .irInit s = .next s) ∧
  (∀ i s t, exec i s = .next t → s.irEn = true → t.irEn = true)

/-- `RX_ENABLE`, `RX_DISABLE`, `RX_SUSPEND`: the whole next state of each; the receiver does nothing but follow the
line while `ir_en = 0`, and a frame's end does not re-enable receive without intent. -/
def Obligations.ReceiveEnableCommandsComplete : Prop :=
  ∀ s : State,
    exec .rxEnable s = .next { s with rxIntent := true, rxHwEn := true } ∧
    exec .rxDisable s = .next { s with rxIntent := false, rxHwEn := false, rxBusy := false } ∧
    exec .rxSuspend s = .next { s with rxHwEn := false, rxBusy := false } ∧
    (∀ line, s.irEn = false → rxAdvance line s = { s with rxPrev := line }) ∧
    (s.rxIntent = false → txReadyHandler s = s)

/-- R179 `REG_RXH`: without a handler a completed byte is still drained but `irq_rx` does not pulse. -/
def Obligations.RegisterReceiveHandlerCompletes : Prop :=
  (∀ p, encode (.regRxh p) = (if p then 0x3401#16 else 0x3400#16)) ∧
  (∀ k : Byte, 1 < k.toNat → isReserved (wordOf 0x34#8 k) = true) ∧
  (∀ (s : State) (p : Bool), exec (.regRxh p) s = .next { s with rxhReg := p }) ∧
  (∀ s : State, (rxComplete s).rxData = s.rxShift ∧
    (s.rxhReg = false → (rxComplete s).irqRx = s.irqRx) ∧ (s.rxhReg = true → (rxComplete s).irqRx = true))

/-- R180 `REG_TXP`: without a provider the periodic step does nothing at all. -/
def Obligations.RegisterTransmitProviderCompletes : Prop :=
  (∀ p, encode (.regTxp p) = (if p then 0x3501#16 else 0x3500#16)) ∧
  (∀ k : Byte, 1 < k.toNat → isReserved (wordOf 0x35#8 k) = true) ∧
  (∀ (s : State) (p : Bool), exec (.regTxp p) s = .next { s with txpReg := p }) ∧
  (∀ (s : State) (prov : Byte), s.txpReg = false → irPeriodicStep prov s = s) ∧
  (∀ (s : State) (p : Bool) (b : Byte) (t u : State), exec (.regTxp p) s = .next t → exec (.transmit b) t = .next u →
    exec (.transmit b) s = .next { u with txpReg := s.txpReg })

/-- `TX_START` and `TX_STOP`: the slow slot and nothing else; no transmitter field is touched. -/
def Obligations.PeriodicLoopCommandsComplete : Prop :=
  ∀ s : State,
    exec .txStart s = .next { s with slowSlot := .hIrtx } ∧ exec .txStop s = .next { s with slowSlot := .hNone } ∧
    exec .txStart s = exec (.regSlow .hIrtx) s

/-- R188 `TxPush`, as `TRANSMIT` and the periodic step use it: accepted by an idle initialised transmitter, dropped
otherwise, and accepted in the cycle a frame ends. -/
def Obligations.PushIsAcceptedWhenIdleAndDroppedOtherwise : Prop :=
  ∀ (s : State) (b : Byte),
    (s.irEn = true → s.txBusy = false →
      exec (.transmit b) s = .next { s with txBusy := true, txData := b, txIdx := 0, txCnt := 0 } ∧
      txPush b s = { s with txBusy := true, txData := b, txIdx := 0, txCnt := 0 }) ∧
    ((s.irEn = false ∨ s.txBusy = true) → exec (.transmit b) s = .next s ∧ txPush b s = s) ∧
    (frameEnds s → s.irEn = true →
      txPush b (txAdvance s) = { txAdvance s with txBusy := true, txData := b, txIdx := 0, txCnt := 0 })

/-- R196 `IrPeriodicStep`: with an initialised subsystem and a provider registered, receive is suspended, the provider
called and its byte pushed (dropped by a busy transmitter); otherwise nothing at all. The frame in flight restores
receive when it ends. -/
def Obligations.PeriodicStepSuspendsReceiveAndPushes : Prop :=
  ∀ (s : State) (prov : Byte),
    (s.irEn = true → s.txpReg = true → s.txBusy = false →
      irPeriodicStep prov s = { s with rxHwEn := false, rxBusy := false, provTake := true,
                                       txBusy := true, txData := prov, txIdx := 0, txCnt := 0 }) ∧
    (s.irEn = true → s.txpReg = true → s.txBusy = true →
      irPeriodicStep prov s = { s with rxHwEn := false, rxBusy := false, provTake := true }) ∧
    (s.irEn = false ∨ s.txpReg = false → irPeriodicStep prov s = s) ∧
    (frameEnds s → s.rxIntent = true → (txAdvance s).rxHwEn = true)

/-- Every command completes: none blocks or waits (40_step.md section 1). -/
def Obligations.EveryCommandCompletes : Prop := ∀ (i : Instr) (s : State), ∃ t, exec i s = .next t

/-- R69 and R105, the fields no command writes: counters, gate, carrier, the receiver's position and bytes, every
strobe, and the model's own fields. -/
def Obligations.CommandsLeaveEngineFieldsUnchanged : Prop :=
  ∀ (i : Instr) (s t : State), exec i s = .next t →
    t.preCnt = s.preCnt ∧ t.baseCnt = s.baseCnt ∧ t.slowCnt = s.slowCnt ∧ t.pwmCnt = s.pwmCnt ∧ t.gate = s.gate ∧
    t.carCnt = s.carCnt ∧ t.carrier = s.carrier ∧
    t.rxPrev = s.rxPrev ∧ t.rxIdx = s.rxIdx ∧ t.rxCnt = s.rxCnt ∧ t.rxShift = s.rxShift ∧ t.rxData = s.rxData ∧
    t.evFast = s.evFast ∧ t.evSlow = s.evSlow ∧ t.irqFast = s.irqFast ∧ t.irqSlow = s.irqSlow ∧ t.irqRx = s.irqRx ∧
    t.provTake = s.provTake ∧ t.txDone = s.txDone ∧
    t.cfg = s.cfg ∧ t.inputs = s.inputs ∧ t.cycle = s.cycle

/-- R69 from the other side: the engines and the in-block handlers never write a slot, an enable of an engine, the
mask, the brightness, the receive intent, a hook flag or the fault flag. -/
def Obligations.EnginesLeaveHostSettingsUnchanged : Prop :=
  ∀ (s : State) (inp : Input) (t : State), t = engines inp s →
    t.tickEn = s.tickEn ∧ t.fastSlot = s.fastSlot ∧ t.slowSlot = s.slowSlot ∧ t.lightEn = s.lightEn ∧
    t.mask = s.mask ∧ t.brightness = s.brightness ∧ t.irEn = s.irEn ∧ t.rxIntent = s.rxIntent ∧
    t.rxhReg = s.rxhReg ∧ t.txpReg = s.txpReg ∧ t.cmdFault = s.cmdFault ∧ t.cfg = s.cfg ∧ t.inputs = s.inputs ∧
    t.cycle = s.cycle

/-- R63: a command executed twice leaves what executing it once leaves. -/
def Obligations.CommandsAreIdempotent : Prop :=
  ∀ (i : Instr) (s t : State), exec i s = .next t → exec i t = .next t

/-- R253: the three initialisation commands may be given in any order. -/
def Obligations.InitialisationsCommute : Prop :=
  ∀ (i j : Instr) (s t u : State), i ∈ [Instr.tickInit, .lightInit, .irInit] →
    j ∈ [Instr.tickInit, .lightInit, .irInit] → exec i s = .next t → exec j t = .next u →
    ∃ t', exec j s = .next t' ∧ exec i t' = .next u

/-! ## Outputs (10_state.md section 10) -/

/-- The serial line (10_state.md section 10). Its levels and its bit order are marked by the spec as general knowledge:
log entry 12. -/
def Obligations.SerialLineShowsTheBitInFlight : Prop :=
  ∀ s : State,
    (s.txBusy = false → txLine s = true) ∧
    (s.txBusy = true → s.txIdx = 0 → txLine s = false) ∧
    (s.txBusy = true → 1 ≤ s.txIdx → s.txIdx ≤ 8 → txLine s = s.txData.getLsbD (s.txIdx - 1)) ∧
    (s.txBusy = true → s.txIdx = 9 → txLine s = true) ∧
    (s.Laws36 → s.irEn = false → txLine s = true)

/-- R56: the lamp pins. -/
def Obligations.LampPinsShowMaskThroughGate : Prop :=
  ∀ s : State, (s.lightEn = true → s.gate = true → led s = s.mask) ∧
    (s.lightEn = false ∨ s.gate = false → led s = 0#3)

/-- The modulated signal is the carrier during a mark and 0 during a space (43_ir_carrier.md section 3). -/
def Obligations.ModulatedSignalIsCarrierDuringMark : Prop :=
  ∀ s : State, (txLine s = true → irMod s = s.carrier) ∧ (txLine s = false → irMod s = false) ∧
    (s.Laws36 → s.irEn = false → irMod s = false)

/-- R166: the rounding of `CARRIER_HALF`, and the rule's example clocks. -/
def Obligations.CarrierHalfRoundsTowardZero : Prop :=
  (∀ c : Cfg, 2 * carrierHalf c ≤ c.fClk / 38000 ∧ 38000 * (2 * carrierHalf c) ≤ c.fClk ∧
    (c.fClk < 76000 → carrierHalf c = 0) ∧ (76000 ≤ c.fClk → 1 ≤ carrierHalf c)) ∧
  (∀ c : Cfg, (c.fClk = 76000 → carrierHalf c = 1) ∧ (c.fClk = 8000000 → carrierHalf c = 105) ∧
    (c.fClk = 16000000 → carrierHalf c = 210) ∧ (c.fClk = 20000000 → carrierHalf c = 263))

/-! ## Invariants (10_state.md section 7) -/

/-- The invariant of the block is kept by every step, from every state that meets it. -/
def Obligations.EveryStepKeepsTheInvariant : Prop :=
  ∀ s t : State, s.Inv → step s = .next t → t.Inv

/-- The invariant holds after reset, under every configuration within R5 and every input stream. -/
def Obligations.ResetStateMeetsTheInvariant : Prop :=
  State.reset.Inv ∧
  ∀ (c : Cfg) (ins : List Input), c.wellFormed = true → ({ State.resetWith c with inputs := ins } : State).Inv

/-- R36: the eight laws, in every state of every run, whatever the inputs. -/
def Obligations.LawsOfRule36HoldInEveryRun : Prop :=
  ∀ (c : Cfg) (ins : List Input) (n : Nat) (t : State), c.wellFormed = true →
    run n { State.resetWith c with inputs := ins } = .next t →
    t.Laws36 ∧
    (∀ u, step t = .next u → (currentInput t).rst = false →
      (t.tickEn = true → u.tickEn = true) ∧ (t.lightEn = true → u.lightEn = true) ∧
      (t.irEn = true → u.irEn = true) ∧ (t.cmdFault = true → u.cmdFault = true))

/-! ## Tick Scheduler (41_tick_scheduler.md) -/

/-- R133: the closed form of the divider chain after the command that first sets `tick_en`, whatever the later
commands, as long as no reset follows. -/
def Obligations.TickChainFollowsItsClosedForm : Prop :=
  (∀ (s : State) (inp : Input) (rest : List Input) (i : Instr) (n : Nat),
    s.Inv → s.tickEn = false → s.inputs = inp :: rest → inp.rst = false → presents inp i →
    i ∈ [Instr.tickInit, .lightInit, .irInit] → n ≤ rest.length → (∀ r ∈ rest.take n, r.rst = false) →
    ∃ t, run (n + 1) s = .next t ∧
      t.preCnt = n % s.cfg.tickPrescale ∧
      t.baseCnt = n / s.cfg.tickPrescale % s.cfg.fastCounts ∧
      t.slowCnt = n / (s.cfg.tickPrescale * s.cfg.fastCounts) % s.cfg.slowDiv ∧
      (t.evFast = true ↔ 0 < n ∧ n % (s.cfg.tickPrescale * s.cfg.fastCounts) = 0) ∧
      (t.evSlow = true ↔ 0 < n ∧ n % (s.cfg.tickPrescale * s.cfg.fastCounts * s.cfg.slowDiv) = 0)) ∧
  Cfg.ref.tickPrescale * Cfg.ref.fastCounts = 133376 ∧
  Cfg.ref.tickPrescale * Cfg.ref.fastCounts * Cfg.ref.slowDiv = 20006400 ∧
  Cfg.test.tickPrescale * Cfg.test.fastCounts = 6 ∧
  Cfg.test.tickPrescale * Cfg.test.fastCounts * Cfg.test.slowDiv = 60

/-- Dispatch at a tick (41_tick_scheduler.md sections 2 and 3, R130 and the corner cases of R135). At a tick that is both
fast and slow the slow slot's handler is applied to what the fast slot's handler and the counter have left; at a fast
tick that is not slow, and in a cycle without a tick, the slow slot's handler is not applied. (The equations name the
order; the handlers of this block write so that no port shows it.) `H_PWM` in both slots counts twice, `H_IRTX` in both
slots pushes once, and a command of the tick's cycle comes after its handlers. -/
def Obligations.BothSlotsAreServedFastThenSlow : Prop :=
  (∀ (s : State) (prov : Byte), slowTickDue s →
    tickAdvance prov s = invoke s.slowSlot .slow prov (strobeSlow (countSlow
      (invoke s.fastSlot .fast prov (strobeFast { s with preCnt := 0, baseCnt := 0 }))))) ∧
  (∀ (s : State) (prov : Byte), fastTickDue s → ¬slowTickDue s →
    tickAdvance prov s = countSlow (invoke s.fastSlot .fast prov (strobeFast { s with preCnt := 0, baseCnt := 0 }))) ∧
  (∀ (s : State) (prov : Byte), ¬fastTickDue s →
    ∃ pre base, tickAdvance prov s = { s with preCnt := pre, baseCnt := base }) ∧
  ∀ s : State, s.cfg.wellFormed = true → slowTickDue s → (currentInput s).rst = false →
    (s.fastSlot = .hPwm → s.slowSlot = .hPwm → ∃ t, step s = .next t ∧ t.pwmCnt = (s.pwmCnt + 2) % 100) ∧
    (s.fastSlot = .hIrtx → s.slowSlot = .hIrtx → s.irEn = true → s.txpReg = true → s.txBusy = false →
      ∃ t, step s = .next t ∧ t.provTake = true ∧ t.txBusy = true ∧ t.txData = (currentInput s).provByte) ∧
    (∀ h, s.fastSlot = .hExt → presents (currentInput s) (.regFast h) →
      ∃ t, step s = .next t ∧ t.irqFast = true ∧ t.fastSlot = h)

/-! ## Light Controller (42_light_controller.md) -/

/-- R151: the steady state of the PWM from the last wrap on, while the brightness does not change: any number of
`PwmStep` calls that takes the counter past a wrap leaves the gate open exactly below the brightness, and from there on
every step keeps it so, at whatever value the counter stands (two calls in one cycle may pass over 0). -/
def Obligations.GateIsOpenExactlyBelowTheBrightness : Prop :=
  (∀ s : State, (pwmStep s).pwmCnt = 0 → ((pwmStep s).gate = true ↔ 0 < s.brightness)) ∧
  (∀ (s : State) (k : Nat), s.pwmCnt ≤ 99 → 100 ≤ s.pwmCnt + k →
    ((pwmSteps k s).gate = true ↔ (pwmSteps k s).pwmCnt < s.brightness)) ∧
  (∀ (s : State) (n : Nat), s.cfg.wellFormed = true → s.pwmCnt ≤ 99 → (s.gate = true ↔ s.pwmCnt < s.brightness) →
    s.nextInputs n (fun inp => inp.rst = false ∧ ∀ b, presents inp (.setBright b) → clampBrightness b = s.brightness) →
    ∃ t, run n s = .next t ∧ t.brightness = s.brightness ∧ t.pwmCnt ≤ 99 ∧
      (t.gate = true ↔ t.pwmCnt < s.brightness) ∧
      (t.lightEn = true → led t = if t.pwmCnt < s.brightness then t.mask else 0#3))

/-- R152: brightness 0 never shows a 1 once the gate is closed, brightness 100 never closes an open gate. -/
def Obligations.BrightnessEndsAreAlwaysOffAndAlwaysOn : Prop :=
  (∀ s : State, s.brightness = 0 → (pwmStep s).pwmCnt = 0 → (pwmStep s).gate = false) ∧
  (∀ (s : State) (n : Nat), s.cfg.wellFormed = true →
    s.nextInputs n (fun inp => inp.rst = false ∧ ∀ b, presents inp (.setBright b) → clampBrightness b = s.brightness) →
    (s.brightness = 0 → s.gate = false → ∃ t, run n s = .next t ∧ t.gate = false ∧ led t = 0#3) ∧
    (s.brightness = 100 → s.gate = true → ∃ t, run n s = .next t ∧ t.gate = true))

/-- R153: what a change of brightness in mid-cycle does to the gate, tick by tick up to the next wrap. -/
def Obligations.BrightnessChangeTakesEffectAtPwmEvents : Prop :=
  ∀ (s0 s : State) (b : Byte), s0.pwmCnt ≤ 99 → exec (.setBright b) s0 = .next s →
    s.gate = s0.gate ∧ s.pwmCnt = s0.pwmCnt ∧
    (s0.pwmCnt < clampBrightness b →
      (∀ k, s0.pwmCnt + k < clampBrightness b → s0.pwmCnt + k ≤ 99 → (pwmSteps k s).gate = s0.gate) ∧
      (∀ k, clampBrightness b ≤ s0.pwmCnt + k → s0.pwmCnt + k ≤ 99 → (pwmSteps k s).gate = false)) ∧
    (clampBrightness b ≤ s0.pwmCnt → ∀ k, s0.pwmCnt + k ≤ 99 → (pwmSteps k s).gate = s0.gate) ∧
    (pwmSteps (100 - s0.pwmCnt) s).pwmCnt = 0 ∧
    ((pwmSteps (100 - s0.pwmCnt) s).gate = true ↔ 0 < clampBrightness b)

/-- After reset the gate first opens at the 100th call of `PwmStep` (42_light_controller.md section 2), if the brightness is above 0. -/
def Obligations.GateFirstOpensAtTheHundredthPwmStep : Prop :=
  ∀ (s : State), s.pwmCnt = 0 → s.gate = false → 0 < s.brightness →
    (∀ k, k < 100 → (pwmSteps k s).gate = false ∧ (pwmSteps k s).pwmCnt = k) ∧
    (pwmSteps 100 s).gate = true ∧ (pwmSteps 100 s).pwmCnt = 0

/-! ## IR carrier (43_ir_carrier.md) -/

/-- R164: the closed form of the carrier after the `IR_INIT` that first sets `ir_en`, whatever the later commands, as
long as no reset follows. -/
def Obligations.CarrierFollowsItsClosedForm : Prop :=
  (∀ (s : State) (inp : Input) (rest : List Input) (n : Nat),
    s.Inv → s.irEn = false → s.inputs = inp :: rest → inp.rst = false → presents inp .irInit →
    n ≤ rest.length → (∀ r ∈ rest.take n, r.rst = false) →
    ∃ t, run (n + 1) s = .next t ∧ t.carCnt = n % carrierHalf s.cfg ∧
      (t.carrier = true ↔ n / carrierHalf s.cfg % 2 = 1)) ∧
  carrierHalf Cfg.ref = 263 ∧ carrierHalf Cfg.test = 5

/-- R165: the carrier is free-running: two runs that agree on the configuration and the carrier's own fields agree on
the carrier for ever, whatever the transmitter, the receiver and the commands do. -/
def Obligations.CarrierIsFreeRunning : Prop :=
  ∀ (n : Nat) (s s' : State), s.cfg.wellFormed = true → s'.cfg = s.cfg → s.irEn = true → s'.irEn = true →
    s'.carCnt = s.carCnt → s'.carrier = s.carrier →
    s.nextInputs n (fun inp => inp.rst = false) → s'.nextInputs n (fun inp => inp.rst = false) →
    ∃ t t', run n s = .next t ∧ run n s' = .next t' ∧ t'.carCnt = t.carCnt ∧ t'.carrier = t.carrier

/-! ## IR framer (44_ir_framer.md) -/

/-- The frame on the line (44_ir_framer.md section 3, the closed form of R192): from the cycle of a successful push each
of the ten bits is on the line for `BIT_CYCLES` cycles, whatever the commands; then `tx_done`, and the line is idle
unless a push of that very cycle is accepted (R188; log entry 13). Levels and bit order: log entry 12. -/
def Obligations.FrameOccupiesTenBitTimes : Prop :=
  ∀ (s : State) (b : Byte), s.cfg.wellFormed = true → s.txBusy = true → s.txIdx = 0 → s.txCnt = 0 → s.txData = b →
    s.nextInputs (10 * s.cfg.bitCycles) (fun inp => inp.rst = false) →
    (∀ j, j < 10 * s.cfg.bitCycles →
      ∃ t, run j s = .next t ∧ t.txBusy = true ∧ t.txIdx = j / s.cfg.bitCycles ∧ t.txCnt = j % s.cfg.bitCycles ∧
        t.txData = b ∧ txLine t = (frameBits b).getLsbD (j / s.cfg.bitCycles) ∧ (0 < j → t.txDone = false)) ∧
    ∃ u t, run (10 * s.cfg.bitCycles - 1) s = .next u ∧ step u = .next t ∧ t.txDone = true ∧
      ((∀ c, ¬presents (currentInput u) (.transmit c)) → t.provTake = false → t.txBusy = false ∧ txLine t = true)

/-- The half-duplex window (44_ir_framer.md section 4, R197): a receiver suspended while its intent stands is deaf for
exactly the ten bit times of the frame just pushed, and is enabled again in the cycle the frame ends. -/
def Obligations.ReceiverIsDeafDuringOwnFrameOnly : Prop :=
  ∀ s : State, s.cfg.wellFormed = true → s.txBusy = true → s.txIdx = 0 → s.txCnt = 0 → s.rxHwEn = false →
    s.rxIntent = true →
    s.nextInputs (10 * s.cfg.bitCycles)
      (fun inp => inp.rst = false ∧ ¬presents inp .rxEnable ∧ ¬presents inp .rxDisable) →
    (∀ j, j < 10 * s.cfg.bitCycles →
      ∃ t, run j s = .next t ∧ t.rxHwEn = false ∧ t.rxIntent = true ∧ t.rxData = s.rxData ∧
        (0 < j → t.irqRx = false)) ∧
    ∃ u t, run (10 * s.cfg.bitCycles - 1) s = .next u ∧ step u = .next t ∧ t.txDone = true ∧
      (¬presents (currentInput u) .rxSuspend → t.provTake = false → t.rxHwEn = true)

/-- Sampling and completion (44_ir_framer.md section 5, R201, R202, R203, R204): a frame that starts with an edge
at an enabled idle receiver (enabled, it may be, in that very cycle by the end of an own frame) that is not turned off
(no `RX_DISABLE`, no `RX_SUSPEND`, no periodic step that acts, R187) is assembled from its eight samples, one in the middle of each data bit, least significant
first (log entry 12), and delivered in the middle of the stop bit, whose level is not examined. -/
def Obligations.FrameIsAssembledFromItsEightSamples : Prop :=
  ∀ (s : State) (b : Byte), s.cfg.wellFormed = true → receiverOn s → s.rxBusy = false → s.rxPrev = true →
    s.nextInputs (9 * s.cfg.bitCycles + sampleMid s.cfg + 1)
      (fun inp => inp.rst = false ∧ ¬presents inp .rxDisable ∧ ¬presents inp .rxSuspend) →
    (∀ k t, k < 9 * s.cfg.bitCycles + sampleMid s.cfg + 1 → run (k + 1) s = .next t → t.provTake = false) →
    (s.inputs[0]?).map Input.rxLine = some false →
    (∀ i, i < 8 →
      (s.inputs[(i + 1) * s.cfg.bitCycles + sampleMid s.cfg]?).map Input.rxLine = some (b.getLsbD i)) →
    ∃ u t, run (9 * s.cfg.bitCycles + sampleMid s.cfg) s = .next u ∧ step u = .next t ∧ u.rxBusy = true ∧
      t.rxBusy = false ∧ t.rxData = b ∧ (t.irqRx = true ↔ u.rxhReg = true)

/-- A well-formed frame is received exactly (44_ir_framer.md section 5, R207) by an enabled idle receiver on which
`RxHwDisable` does not run meanwhile, whether or not a provider is registered: a line that carries the ten-bit frame of
byte `b` for the cycles up to the delivery gives that byte. Levels and bit order: log entry 12. -/
def Obligations.WellFormedFrameIsReceivedExactly : Prop :=
  ∀ (s : State) (b : Byte), s.cfg.wellFormed = true → receiverOn s → s.rxBusy = false → s.rxPrev = true →
    s.nextInputs (9 * s.cfg.bitCycles + sampleMid s.cfg + 1)
      (fun inp => inp.rst = false ∧ ¬presents inp .rxDisable ∧ ¬presents inp .rxSuspend) →
    (∀ k t, k < 9 * s.cfg.bitCycles + sampleMid s.cfg + 1 → run (k + 1) s = .next t → t.provTake = false) →
    (∀ k, k < 9 * s.cfg.bitCycles + sampleMid s.cfg + 1 →
      (s.inputs[k]?).map Input.rxLine = some ((frameBits b).getLsbD (k / s.cfg.bitCycles))) →
    ∃ u t, run (9 * s.cfg.bitCycles + sampleMid s.cfg) s = .next u ∧ step u = .next t ∧
      t.rxData = b ∧ (u.rxhReg = true → t.irqRx = true)

/-- A frame begins exactly at a falling edge seen by an enabled idle receiver, and `rx_prev` follows the line in every
cycle without reset (44_ir_framer.md section 5, R199). -/
def Obligations.FrameStartsOnlyAtAFallingEdge : Prop :=
  ∀ s t : State, (currentInput s).rst = false → step s = .next t →
    t.rxPrev = (currentInput s).rxLine ∧
    (s.rxBusy = false → t.rxBusy = true →
      receiverOn s ∧ s.rxPrev = true ∧ (currentInput s).rxLine = false ∧ t.rxIdx = 0 ∧ t.rxCnt = 0) ∧
    (s.rxBusy = false → receiverOn s → s.rxPrev = true → (currentInput s).rxLine = false → t.provTake = false →
      ¬presents (currentInput s) .rxDisable → ¬presents (currentInput s) .rxSuspend → t.rxBusy = true)

/-- Receive comes back only at the end of a frame with intent, or by `RX_ENABLE` (70_reset_and_hazards.md section 3, R262). -/
def Obligations.OnlyFrameEndOrRxEnableRestoresReceive : Prop :=
  ∀ s t : State, step s = .next t → s.rxHwEn = false → t.rxHwEn = true →
    (t.txDone = true ∧ s.rxIntent = true) ∨ presents (currentInput s) .rxEnable

/-- Where events and the command of one cycle meet, the order of the sub-steps decides (40_step.md section 1, items 3, 4,
5 and 7 of R103; 70_reset_and_hazards.md section 3, R261). -/
def Obligations.SubStepOrderDecidesCoincidentWrites : Prop :=
  ∀ s : State, s.cfg.wellFormed = true → (currentInput s).rst = false →
    (∀ b, frameEnds s → s.irEn = true → s.txpReg = false → presents (currentInput s) (.transmit b) →
      ∃ t, step s = .next t ∧ t.txDone = true ∧ t.txBusy = true ∧ t.txData = b ∧ t.txIdx = 0 ∧ t.txCnt = 0) ∧
    (frameEnds s → s.irEn = true → s.txpReg = false → s.rxIntent = true → s.rxBusy = false → s.rxPrev = true →
      (currentInput s).rxLine = false → (currentInput s).cmdValid = false →
      ∃ t, step s = .next t ∧ t.txDone = true ∧ t.rxHwEn = true ∧ t.rxBusy = true) ∧
    (frameEnds s → presents (currentInput s) .rxSuspend →
      ∃ t, step s = .next t ∧ t.txDone = true ∧ t.rxHwEn = false ∧ t.rxIntent = s.rxIntent) ∧
    (∀ t, step s = .next t → t.provTake = true → ¬presents (currentInput s) .rxEnable → t.rxHwEn = false) ∧
    (byteCompletes s → s.rxhReg = true → presents (currentInput s) .rxDisable →
      ∃ t, step s = .next t ∧ t.irqRx = true ∧ t.rxData = s.rxShift ∧ t.rxHwEn = false) ∧
    (∀ b, slowTickDue s → s.slowSlot = .hIrtx → s.irEn = true → s.txpReg = true → s.txBusy = false →
      presents (currentInput s) (.transmit b) →
      ∃ t, step s = .next t ∧ t.txBusy = true ∧ t.txData = (currentInput s).provByte)

/-! ## Outputs and the PWM step in every state -/

/-- R54: the output ports in every state, each a function of the 36 fields alone: the model's own fields (log entries 1, 3
and 5) do not show. -/
def Obligations.OutputPortsShowTheFieldsOfRule54 : Prop :=
  ∀ s : State,
    (outputs s).carrier = s.carrier ∧ (outputs s).txLine = txLine s ∧ (outputs s).led = led s ∧
    (outputs s).fastTick = s.evFast ∧ (outputs s).slowTick = s.evSlow ∧
    (outputs s).irqFast = s.irqFast ∧ (outputs s).irqSlow = s.irqSlow ∧ (outputs s).irqRx = s.irqRx ∧
    (outputs s).rxByte = s.rxData ∧ (outputs s).provTake = s.provTake ∧ (outputs s).txDone = s.txDone ∧
    ((outputs s).txReady = true ↔ s.irEn = true ∧ s.txBusy = false) ∧
    (outputs s).tickCount = s.baseCnt ∧ (outputs s).cmdFault = s.cmdFault ∧
    (∀ c ins n, outputs { s with cfg := c, inputs := ins, cycle := n } = outputs s)

/-- R150 and R155: what `PwmStep` does, and `pwm_cnt` and `gate` after a step for every content of the two slots: each
slot that a tick of the cycle serves and that holds `H_PWM` calls `PwmStep` once, and without a call both stand still. -/
def Obligations.PwmStepRunsOncePerServedSlotThatHoldsIt : Prop :=
  (∀ s : State, pwmStep s =
    { s with
      pwmCnt := (s.pwmCnt + 1) % 100
      gate := if (s.pwmCnt + 1) % 100 = s.brightness then false
              else if (s.pwmCnt + 1) % 100 = 0 then true else s.gate }) ∧
  (∀ s : State, s.mask = 0#3 → led s = 0#3) ∧
  (∀ s : State, s.cfg.wellFormed = true → (currentInput s).rst = false →
    ∃ t, step s = .next t ∧
      (¬(fastTickDue s ∧ s.fastSlot = .hPwm) → ¬(slowTickDue s ∧ s.slowSlot = .hPwm) →
        t.pwmCnt = s.pwmCnt ∧ t.gate = s.gate) ∧
      (fastTickDue s ∧ s.fastSlot = .hPwm → ¬(slowTickDue s ∧ s.slowSlot = .hPwm) →
        t.pwmCnt = (pwmStep s).pwmCnt ∧ t.gate = (pwmStep s).gate) ∧
      (¬(fastTickDue s ∧ s.fastSlot = .hPwm) → slowTickDue s ∧ s.slowSlot = .hPwm →
        t.pwmCnt = (pwmStep s).pwmCnt ∧ t.gate = (pwmStep s).gate) ∧
      (fastTickDue s ∧ s.fastSlot = .hPwm → slowTickDue s ∧ s.slowSlot = .hPwm →
        t.pwmCnt = (pwmStep (pwmStep s)).pwmCnt ∧ t.gate = (pwmStep (pwmStep s)).gate))
end

