-- ==== Sys2Proof/Laws/Decode.lean ====
section
/-!
SUPPORT. The facts about the two fields of a command word (R81) and the operand formats (R82) that proofs about the
decoder and the encoder cite.
-/

namespace Sys2Proof

/-- The opcode field of a word put together from its fields. -/
@[simp] theorem opField_wordOf (op k : Byte) : opField (wordOf op k) = op := by
  apply BitVec.eq_of_getLsbD_eq
  intro i hi
  simp only [opField, wordOf, BitVec.getLsbD_extractLsb', BitVec.getLsbD_append, hi, decide_true, Bool.true_and,
    show ¬8 + i < 8 by omega, Nat.add_sub_cancel_left, if_false]

/-- The operand field of a word put together from its fields. -/
@[simp] theorem kField_wordOf (op k : Byte) : kField (wordOf op k) = k := by
  apply BitVec.eq_of_getLsbD_eq
  intro i hi
  simp only [kField, wordOf, BitVec.getLsbD_extractLsb', BitVec.getLsbD_append, hi, decide_true, Bool.true_and,
    Nat.zero_add, if_true]

/-- A word is its two fields. -/
theorem wordOf_fields (w : Word) : wordOf (opField w) (kField w) = w := by
  apply BitVec.eq_of_getLsbD_eq
  intro i hi
  simp only [opField, kField, wordOf, BitVec.getLsbD_append, BitVec.getLsbD_extractLsb']
  split
  · simp_all
  · have h : 8 + (i - 8) = i := by omega
    have h' : i - 8 < 8 := by omega
    simp [h, h']

/-- Decoding a word put together from its fields. -/
@[simp] theorem decode_wordOf (op k : Byte) : decode (wordOf op k) = decodeFields op k := by
  simp [decode]

/-- The two values of a handler id go round (R26). -/
@[simp] theorem HandlerId.ofBits_toBits (h : HandlerId) : HandlerId.ofBits h.toBits = h := by
  cases h <;> decide

/-- The two values of a handler id go round (R26). -/
@[simp] theorem HandlerId.toBits_ofBits (v : BitVec 2) : (HandlerId.ofBits v).toBits = v := by
  revert v
  decide

/-- Format `H` reads back the handler id it wrote. -/
theorem decodeH_operandH (mk : HandlerId → Instr) (h : HandlerId) : decodeH mk (operandH h) = .command (mk h) := by
  cases h <;> rfl

/-- Format `P` reads back the bit it wrote. -/
theorem decodeP_operandP (mk : Bool → Instr) (p : Bool) : decodeP mk (operandP p) = .command (mk p) := by
  cases p <;> rfl

/-- The operand byte of format `C`: its channel, its level, and its bits 6 to 2. -/
theorem operandC_fields (c : Channel) (on : Bool) :
    (operandC c on).extractLsb' 2 5 = 0#5 ∧ (operandC c on).extractLsb' 0 2 = c ∧
    (operandC c on).getLsbD 7 = on := by
  revert c on
  decide

/-- Format `C` reads back the channel and the level it wrote, for a channel that exists. -/
theorem decodeC_operandC (mk : Channel → Bool → Instr) (c : Channel) (on : Bool) (h : c ≠ 3#2) :
    decodeC mk (operandC c on) = .command (mk c on) := by
  obtain ⟨h0, h1, h2⟩ := operandC_fields c on
  simp only [decodeC, h0, h1, h2, if_pos, if_neg h]

/-- Masking a word to its high byte drops the operand. -/
theorem wordOf_and_high (op k : Byte) : wordOf op k &&& 0xFF00#16 = wordOf op 0#8 := by
  apply BitVec.eq_of_getLsbD_eq
  intro i hi
  have h : (0xFF00#16 : Word) = (0xFF#8 : Byte) ++ (0#8 : Byte) := by decide
  have h8 : (0xFF#8 : Byte).getLsbD (i - 8) = decide (i - 8 < 8) := by
    rw [show (0xFF#8 : Byte) = BitVec.allOnes 8 by decide, BitVec.getLsbD_allOnes]
  rw [h, BitVec.getLsbD_and, wordOf, wordOf, BitVec.getLsbD_append, BitVec.getLsbD_append, BitVec.getLsbD_append]
  split
  · simp
  · rw [h8, show decide (i - 8 < 8) = true by simp; omega, Bool.and_true]

end Sys2Proof
end

