-- ==== Sys2Proof/Laws/State.lean ====
section
/-!
SUPPORT. For each named update of the state, one lemma per field, true by `rfl` and tagged `@[simp]`, so that no
later proof unfolds a record update.
-/

namespace Sys2Proof
namespace Machine

@[simp] theorem clearStrobes_tickEn (s : State) : (clearStrobes s).tickEn = s.tickEn := rfl
@[simp] theorem clearStrobes_preCnt (s : State) : (clearStrobes s).preCnt = s.preCnt := rfl
@[simp] theorem clearStrobes_baseCnt (s : State) : (clearStrobes s).baseCnt = s.baseCnt := rfl
@[simp] theorem clearStrobes_slowCnt (s : State) : (clearStrobes s).slowCnt = s.slowCnt := rfl
@[simp] theorem clearStrobes_fastSlot (s : State) : (clearStrobes s).fastSlot = s.fastSlot := rfl
@[simp] theorem clearStrobes_slowSlot (s : State) : (clearStrobes s).slowSlot = s.slowSlot := rfl
@[simp] theorem clearStrobes_lightEn (s : State) : (clearStrobes s).lightEn = s.lightEn := rfl
@[simp] theorem clearStrobes_mask (s : State) : (clearStrobes s).mask = s.mask := rfl
@[simp] theorem clearStrobes_brightness (s : State) : (clearStrobes s).brightness = s.brightness := rfl
@[simp] theorem clearStrobes_pwmCnt (s : State) : (clearStrobes s).pwmCnt = s.pwmCnt := rfl
@[simp] theorem clearStrobes_gate (s : State) : (clearStrobes s).gate = s.gate := rfl
@[simp] theorem clearStrobes_irEn (s : State) : (clearStrobes s).irEn = s.irEn := rfl
@[simp] theorem clearStrobes_carCnt (s : State) : (clearStrobes s).carCnt = s.carCnt := rfl
@[simp] theorem clearStrobes_carrier (s : State) : (clearStrobes s).carrier = s.carrier := rfl
@[simp] theorem clearStrobes_txBusy (s : State) : (clearStrobes s).txBusy = s.txBusy := rfl
@[simp] theorem clearStrobes_txData (s : State) : (clearStrobes s).txData = s.txData := rfl
@[simp] theorem clearStrobes_txIdx (s : State) : (clearStrobes s).txIdx = s.txIdx := rfl
@[simp] theorem clearStrobes_txCnt (s : State) : (clearStrobes s).txCnt = s.txCnt := rfl
@[simp] theorem clearStrobes_rxIntent (s : State) : (clearStrobes s).rxIntent = s.rxIntent := rfl
@[simp] theorem clearStrobes_rxHwEn (s : State) : (clearStrobes s).rxHwEn = s.rxHwEn := rfl
@[simp] theorem clearStrobes_rxPrev (s : State) : (clearStrobes s).rxPrev = s.rxPrev := rfl
@[simp] theorem clearStrobes_rxBusy (s : State) : (clearStrobes s).rxBusy = s.rxBusy := rfl
@[simp] theorem clearStrobes_rxIdx (s : State) : (clearStrobes s).rxIdx = s.rxIdx := rfl
@[simp] theorem clearStrobes_rxCnt (s : State) : (clearStrobes s).rxCnt = s.rxCnt := rfl
@[simp] theorem clearStrobes_rxShift (s : State) : (clearStrobes s).rxShift = s.rxShift := rfl
@[simp] theorem clearStrobes_rxData (s : State) : (clearStrobes s).rxData = s.rxData := rfl
@[simp] theorem clearStrobes_rxhReg (s : State) : (clearStrobes s).rxhReg = s.rxhReg := rfl
@[simp] theorem clearStrobes_txpReg (s : State) : (clearStrobes s).txpReg = s.txpReg := rfl
@[simp] theorem clearStrobes_evFast (s : State) : (clearStrobes s).evFast = false := rfl
@[simp] theorem clearStrobes_evSlow (s : State) : (clearStrobes s).evSlow = false := rfl
@[simp] theorem clearStrobes_irqFast (s : State) : (clearStrobes s).irqFast = false := rfl
@[simp] theorem clearStrobes_irqSlow (s : State) : (clearStrobes s).irqSlow = false := rfl
@[simp] theorem clearStrobes_irqRx (s : State) : (clearStrobes s).irqRx = false := rfl
@[simp] theorem clearStrobes_provTake (s : State) : (clearStrobes s).provTake = false := rfl
@[simp] theorem clearStrobes_txDone (s : State) : (clearStrobes s).txDone = false := rfl
@[simp] theorem clearStrobes_cmdFault (s : State) : (clearStrobes s).cmdFault = s.cmdFault := rfl
@[simp] theorem clearStrobes_cfg (s : State) : (clearStrobes s).cfg = s.cfg := rfl
@[simp] theorem clearStrobes_inputs (s : State) : (clearStrobes s).inputs = s.inputs := rfl
@[simp] theorem clearStrobes_cycle (s : State) : (clearStrobes s).cycle = s.cycle := rfl

@[simp] theorem strobeFast_tickEn (s : State) : (strobeFast s).tickEn = s.tickEn := rfl
@[simp] theorem strobeFast_preCnt (s : State) : (strobeFast s).preCnt = s.preCnt := rfl
@[simp] theorem strobeFast_baseCnt (s : State) : (strobeFast s).baseCnt = s.baseCnt := rfl
@[simp] theorem strobeFast_slowCnt (s : State) : (strobeFast s).slowCnt = s.slowCnt := rfl
@[simp] theorem strobeFast_fastSlot (s : State) : (strobeFast s).fastSlot = s.fastSlot := rfl
@[simp] theorem strobeFast_slowSlot (s : State) : (strobeFast s).slowSlot = s.slowSlot := rfl
@[simp] theorem strobeFast_lightEn (s : State) : (strobeFast s).lightEn = s.lightEn := rfl
@[simp] theorem strobeFast_mask (s : State) : (strobeFast s).mask = s.mask := rfl
@[simp] theorem strobeFast_brightness (s : State) : (strobeFast s).brightness = s.brightness := rfl
@[simp] theorem strobeFast_pwmCnt (s : State) : (strobeFast s).pwmCnt = s.pwmCnt := rfl
@[simp] theorem strobeFast_gate (s : State) : (strobeFast s).gate = s.gate := rfl
@[simp] theorem strobeFast_irEn (s : State) : (strobeFast s).irEn = s.irEn := rfl
@[simp] theorem strobeFast_carCnt (s : State) : (strobeFast s).carCnt = s.carCnt := rfl
@[simp] theorem strobeFast_carrier (s : State) : (strobeFast s).carrier = s.carrier := rfl
@[simp] theorem strobeFast_txBusy (s : State) : (strobeFast s).txBusy = s.txBusy := rfl
@[simp] theorem strobeFast_txData (s : State) : (strobeFast s).txData = s.txData := rfl
@[simp] theorem strobeFast_txIdx (s : State) : (strobeFast s).txIdx = s.txIdx := rfl
@[simp] theorem strobeFast_txCnt (s : State) : (strobeFast s).txCnt = s.txCnt := rfl
@[simp] theorem strobeFast_rxIntent (s : State) : (strobeFast s).rxIntent = s.rxIntent := rfl
@[simp] theorem strobeFast_rxHwEn (s : State) : (strobeFast s).rxHwEn = s.rxHwEn := rfl
@[simp] theorem strobeFast_rxPrev (s : State) : (strobeFast s).rxPrev = s.rxPrev := rfl
@[simp] theorem strobeFast_rxBusy (s : State) : (strobeFast s).rxBusy = s.rxBusy := rfl
@[simp] theorem strobeFast_rxIdx (s : State) : (strobeFast s).rxIdx = s.rxIdx := rfl
@[simp] theorem strobeFast_rxCnt (s : State) : (strobeFast s).rxCnt = s.rxCnt := rfl
@[simp] theorem strobeFast_rxShift (s : State) : (strobeFast s).rxShift = s.rxShift := rfl
@[simp] theorem strobeFast_rxData (s : State) : (strobeFast s).rxData = s.rxData := rfl
@[simp] theorem strobeFast_rxhReg (s : State) : (strobeFast s).rxhReg = s.rxhReg := rfl
@[simp] theorem strobeFast_txpReg (s : State) : (strobeFast s).txpReg = s.txpReg := rfl
@[simp] theorem strobeFast_evFast (s : State) : (strobeFast s).evFast = true := rfl
@[simp] theorem strobeFast_evSlow (s : State) : (strobeFast s).evSlow = s.evSlow := rfl
@[simp] theorem strobeFast_irqFast (s : State) : (strobeFast s).irqFast = s.irqFast := rfl
@[simp] theorem strobeFast_irqSlow (s : State) : (strobeFast s).irqSlow = s.irqSlow := rfl
@[simp] theorem strobeFast_irqRx (s : State) : (strobeFast s).irqRx = s.irqRx := rfl
@[simp] theorem strobeFast_provTake (s : State) : (strobeFast s).provTake = s.provTake := rfl
@[simp] theorem strobeFast_txDone (s : State) : (strobeFast s).txDone = s.txDone := rfl
@[simp] theorem strobeFast_cmdFault (s : State) : (strobeFast s).cmdFault = s.cmdFault := rfl
@[simp] theorem strobeFast_cfg (s : State) : (strobeFast s).cfg = s.cfg := rfl
@[simp] theorem strobeFast_inputs (s : State) : (strobeFast s).inputs = s.inputs := rfl
@[simp] theorem strobeFast_cycle (s : State) : (strobeFast s).cycle = s.cycle := rfl

@[simp] theorem strobeSlow_tickEn (s : State) : (strobeSlow s).tickEn = s.tickEn := rfl
@[simp] theorem strobeSlow_preCnt (s : State) : (strobeSlow s).preCnt = s.preCnt := rfl
@[simp] theorem strobeSlow_baseCnt (s : State) : (strobeSlow s).baseCnt = s.baseCnt := rfl
@[simp] theorem strobeSlow_slowCnt (s : State) : (strobeSlow s).slowCnt = s.slowCnt := rfl
@[simp] theorem strobeSlow_fastSlot (s : State) : (strobeSlow s).fastSlot = s.fastSlot := rfl
@[simp] theorem strobeSlow_slowSlot (s : State) : (strobeSlow s).slowSlot = s.slowSlot := rfl
@[simp] theorem strobeSlow_lightEn (s : State) : (strobeSlow s).lightEn = s.lightEn := rfl
@[simp] theorem strobeSlow_mask (s : State) : (strobeSlow s).mask = s.mask := rfl
@[simp] theorem strobeSlow_brightness (s : State) : (strobeSlow s).brightness = s.brightness := rfl
@[simp] theorem strobeSlow_pwmCnt (s : State) : (strobeSlow s).pwmCnt = s.pwmCnt := rfl
@[simp] theorem strobeSlow_gate (s : State) : (strobeSlow s).gate = s.gate := rfl
@[simp] theorem strobeSlow_irEn (s : State) : (strobeSlow s).irEn = s.irEn := rfl
@[simp] theorem strobeSlow_carCnt (s : State) : (strobeSlow s).carCnt = s.carCnt := rfl
@[simp] theorem strobeSlow_carrier (s : State) : (strobeSlow s).carrier = s.carrier := rfl
@[simp] theorem strobeSlow_txBusy (s : State) : (strobeSlow s).txBusy = s.txBusy := rfl
@[simp] theorem strobeSlow_txData (s : State) : (strobeSlow s).txData = s.txData := rfl
@[simp] theorem strobeSlow_txIdx (s : State) : (strobeSlow s).txIdx = s.txIdx := rfl
@[simp] theorem strobeSlow_txCnt (s : State) : (strobeSlow s).txCnt = s.txCnt := rfl
@[simp] theorem strobeSlow_rxIntent (s : State) : (strobeSlow s).rxIntent = s.rxIntent := rfl
@[simp] theorem strobeSlow_rxHwEn (s : State) : (strobeSlow s).rxHwEn = s.rxHwEn := rfl
@[simp] theorem strobeSlow_rxPrev (s : State) : (strobeSlow s).rxPrev = s.rxPrev := rfl
@[simp] theorem strobeSlow_rxBusy (s : State) : (strobeSlow s).rxBusy = s.rxBusy := rfl
@[simp] theorem strobeSlow_rxIdx (s : State) : (strobeSlow s).rxIdx = s.rxIdx := rfl
@[simp] theorem strobeSlow_rxCnt (s : State) : (strobeSlow s).rxCnt = s.rxCnt := rfl
@[simp] theorem strobeSlow_rxShift (s : State) : (strobeSlow s).rxShift = s.rxShift := rfl
@[simp] theorem strobeSlow_rxData (s : State) : (strobeSlow s).rxData = s.rxData := rfl
@[simp] theorem strobeSlow_rxhReg (s : State) : (strobeSlow s).rxhReg = s.rxhReg := rfl
@[simp] theorem strobeSlow_txpReg (s : State) : (strobeSlow s).txpReg = s.txpReg := rfl
@[simp] theorem strobeSlow_evFast (s : State) : (strobeSlow s).evFast = s.evFast := rfl
@[simp] theorem strobeSlow_evSlow (s : State) : (strobeSlow s).evSlow = true := rfl
@[simp] theorem strobeSlow_irqFast (s : State) : (strobeSlow s).irqFast = s.irqFast := rfl
@[simp] theorem strobeSlow_irqSlow (s : State) : (strobeSlow s).irqSlow = s.irqSlow := rfl
@[simp] theorem strobeSlow_irqRx (s : State) : (strobeSlow s).irqRx = s.irqRx := rfl
@[simp] theorem strobeSlow_provTake (s : State) : (strobeSlow s).provTake = s.provTake := rfl
@[simp] theorem strobeSlow_txDone (s : State) : (strobeSlow s).txDone = s.txDone := rfl
@[simp] theorem strobeSlow_cmdFault (s : State) : (strobeSlow s).cmdFault = s.cmdFault := rfl
@[simp] theorem strobeSlow_cfg (s : State) : (strobeSlow s).cfg = s.cfg := rfl
@[simp] theorem strobeSlow_inputs (s : State) : (strobeSlow s).inputs = s.inputs := rfl
@[simp] theorem strobeSlow_cycle (s : State) : (strobeSlow s).cycle = s.cycle := rfl

@[simp] theorem strobeIrqFast_tickEn (s : State) : (strobeIrqFast s).tickEn = s.tickEn := rfl
@[simp] theorem strobeIrqFast_preCnt (s : State) : (strobeIrqFast s).preCnt = s.preCnt := rfl
@[simp] theorem strobeIrqFast_baseCnt (s : State) : (strobeIrqFast s).baseCnt = s.baseCnt := rfl
@[simp] theorem strobeIrqFast_slowCnt (s : State) : (strobeIrqFast s).slowCnt = s.slowCnt := rfl
@[simp] theorem strobeIrqFast_fastSlot (s : State) : (strobeIrqFast s).fastSlot = s.fastSlot := rfl
@[simp] theorem strobeIrqFast_slowSlot (s : State) : (strobeIrqFast s).slowSlot = s.slowSlot := rfl
@[simp] theorem strobeIrqFast_lightEn (s : State) : (strobeIrqFast s).lightEn = s.lightEn := rfl
@[simp] theorem strobeIrqFast_mask (s : State) : (strobeIrqFast s).mask = s.mask := rfl
@[simp] theorem strobeIrqFast_brightness (s : State) : (strobeIrqFast s).brightness = s.brightness := rfl
@[simp] theorem strobeIrqFast_pwmCnt (s : State) : (strobeIrqFast s).pwmCnt = s.pwmCnt := rfl
@[simp] theorem strobeIrqFast_gate (s : State) : (strobeIrqFast s).gate = s.gate := rfl
@[simp] theorem strobeIrqFast_irEn (s : State) : (strobeIrqFast s).irEn = s.irEn := rfl
@[simp] theorem strobeIrqFast_carCnt (s : State) : (strobeIrqFast s).carCnt = s.carCnt := rfl
@[simp] theorem strobeIrqFast_carrier (s : State) : (strobeIrqFast s).carrier = s.carrier := rfl
@[simp] theorem strobeIrqFast_txBusy (s : State) : (strobeIrqFast s).txBusy = s.txBusy := rfl
@[simp] theorem strobeIrqFast_txData (s : State) : (strobeIrqFast s).txData = s.txData := rfl
@[simp] theorem strobeIrqFast_txIdx (s : State) : (strobeIrqFast s).txIdx = s.txIdx := rfl
@[simp] theorem strobeIrqFast_txCnt (s : State) : (strobeIrqFast s).txCnt = s.txCnt := rfl
@[simp] theorem strobeIrqFast_rxIntent (s : State) : (strobeIrqFast s).rxIntent = s.rxIntent := rfl
@[simp] theorem strobeIrqFast_rxHwEn (s : State) : (strobeIrqFast s).rxHwEn = s.rxHwEn := rfl
@[simp] theorem strobeIrqFast_rxPrev (s : State) : (strobeIrqFast s).rxPrev = s.rxPrev := rfl
@[simp] theorem strobeIrqFast_rxBusy (s : State) : (strobeIrqFast s).rxBusy = s.rxBusy := rfl
@[simp] theorem strobeIrqFast_rxIdx (s : State) : (strobeIrqFast s).rxIdx = s.rxIdx := rfl
@[simp] theorem strobeIrqFast_rxCnt (s : State) : (strobeIrqFast s).rxCnt = s.rxCnt := rfl
@[simp] theorem strobeIrqFast_rxShift (s : State) : (strobeIrqFast s).rxShift = s.rxShift := rfl
@[simp] theorem strobeIrqFast_rxData (s : State) : (strobeIrqFast s).rxData = s.rxData := rfl
@[simp] theorem strobeIrqFast_rxhReg (s : State) : (strobeIrqFast s).rxhReg = s.rxhReg := rfl
@[simp] theorem strobeIrqFast_txpReg (s : State) : (strobeIrqFast s).txpReg = s.txpReg := rfl
@[simp] theorem strobeIrqFast_evFast (s : State) : (strobeIrqFast s).evFast = s.evFast := rfl
@[simp] theorem strobeIrqFast_evSlow (s : State) : (strobeIrqFast s).evSlow = s.evSlow := rfl
@[simp] theorem strobeIrqFast_irqFast (s : State) : (strobeIrqFast s).irqFast = true := rfl
@[simp] theorem strobeIrqFast_irqSlow (s : State) : (strobeIrqFast s).irqSlow = s.irqSlow := rfl
@[simp] theorem strobeIrqFast_irqRx (s : State) : (strobeIrqFast s).irqRx = s.irqRx := rfl
@[simp] theorem strobeIrqFast_provTake (s : State) : (strobeIrqFast s).provTake = s.provTake := rfl
@[simp] theorem strobeIrqFast_txDone (s : State) : (strobeIrqFast s).txDone = s.txDone := rfl
@[simp] theorem strobeIrqFast_cmdFault (s : State) : (strobeIrqFast s).cmdFault = s.cmdFault := rfl
@[simp] theorem strobeIrqFast_cfg (s : State) : (strobeIrqFast s).cfg = s.cfg := rfl
@[simp] theorem strobeIrqFast_inputs (s : State) : (strobeIrqFast s).inputs = s.inputs := rfl
@[simp] theorem strobeIrqFast_cycle (s : State) : (strobeIrqFast s).cycle = s.cycle := rfl

@[simp] theorem strobeIrqSlow_tickEn (s : State) : (strobeIrqSlow s).tickEn = s.tickEn := rfl
@[simp] theorem strobeIrqSlow_preCnt (s : State) : (strobeIrqSlow s).preCnt = s.preCnt := rfl
@[simp] theorem strobeIrqSlow_baseCnt (s : State) : (strobeIrqSlow s).baseCnt = s.baseCnt := rfl
@[simp] theorem strobeIrqSlow_slowCnt (s : State) : (strobeIrqSlow s).slowCnt = s.slowCnt := rfl
@[simp] theorem strobeIrqSlow_fastSlot (s : State) : (strobeIrqSlow s).fastSlot = s.fastSlot := rfl
@[simp] theorem strobeIrqSlow_slowSlot (s : State) : (strobeIrqSlow s).slowSlot = s.slowSlot := rfl
@[simp] theorem strobeIrqSlow_lightEn (s : State) : (strobeIrqSlow s).lightEn = s.lightEn := rfl
@[simp] theorem strobeIrqSlow_mask (s : State) : (strobeIrqSlow s).mask = s.mask := rfl
@[simp] theorem strobeIrqSlow_brightness (s : State) : (strobeIrqSlow s).brightness = s.brightness := rfl
@[simp] theorem strobeIrqSlow_pwmCnt (s : State) : (strobeIrqSlow s).pwmCnt = s.pwmCnt := rfl
@[simp] theorem strobeIrqSlow_gate (s : State) : (strobeIrqSlow s).gate = s.gate := rfl
@[simp] theorem strobeIrqSlow_irEn (s : State) : (strobeIrqSlow s).irEn = s.irEn := rfl
@[simp] theorem strobeIrqSlow_carCnt (s : State) : (strobeIrqSlow s).carCnt = s.carCnt := rfl
@[simp] theorem strobeIrqSlow_carrier (s : State) : (strobeIrqSlow s).carrier = s.carrier := rfl
@[simp] theorem strobeIrqSlow_txBusy (s : State) : (strobeIrqSlow s).txBusy = s.txBusy := rfl
@[simp] theorem strobeIrqSlow_txData (s : State) : (strobeIrqSlow s).txData = s.txData := rfl
@[simp] theorem strobeIrqSlow_txIdx (s : State) : (strobeIrqSlow s).txIdx = s.txIdx := rfl
@[simp] theorem strobeIrqSlow_txCnt (s : State) : (strobeIrqSlow s).txCnt = s.txCnt := rfl
@[simp] theorem strobeIrqSlow_rxIntent (s : State) : (strobeIrqSlow s).rxIntent = s.rxIntent := rfl
@[simp] theorem strobeIrqSlow_rxHwEn (s : State) : (strobeIrqSlow s).rxHwEn = s.rxHwEn := rfl
@[simp] theorem strobeIrqSlow_rxPrev (s : State) : (strobeIrqSlow s).rxPrev = s.rxPrev := rfl
@[simp] theorem strobeIrqSlow_rxBusy (s : State) : (strobeIrqSlow s).rxBusy = s.rxBusy := rfl
@[simp] theorem strobeIrqSlow_rxIdx (s : State) : (strobeIrqSlow s).rxIdx = s.rxIdx := rfl
@[simp] theorem strobeIrqSlow_rxCnt (s : State) : (strobeIrqSlow s).rxCnt = s.rxCnt := rfl
@[simp] theorem strobeIrqSlow_rxShift (s : State) : (strobeIrqSlow s).rxShift = s.rxShift := rfl
@[simp] theorem strobeIrqSlow_rxData (s : State) : (strobeIrqSlow s).rxData = s.rxData := rfl
@[simp] theorem strobeIrqSlow_rxhReg (s : State) : (strobeIrqSlow s).rxhReg = s.rxhReg := rfl
@[simp] theorem strobeIrqSlow_txpReg (s : State) : (strobeIrqSlow s).txpReg = s.txpReg := rfl
@[simp] theorem strobeIrqSlow_evFast (s : State) : (strobeIrqSlow s).evFast = s.evFast := rfl
@[simp] theorem strobeIrqSlow_evSlow (s : State) : (strobeIrqSlow s).evSlow = s.evSlow := rfl
@[simp] theorem strobeIrqSlow_irqFast (s : State) : (strobeIrqSlow s).irqFast = s.irqFast := rfl
@[simp] theorem strobeIrqSlow_irqSlow (s : State) : (strobeIrqSlow s).irqSlow = true := rfl
@[simp] theorem strobeIrqSlow_irqRx (s : State) : (strobeIrqSlow s).irqRx = s.irqRx := rfl
@[simp] theorem strobeIrqSlow_provTake (s : State) : (strobeIrqSlow s).provTake = s.provTake := rfl
@[simp] theorem strobeIrqSlow_txDone (s : State) : (strobeIrqSlow s).txDone = s.txDone := rfl
@[simp] theorem strobeIrqSlow_cmdFault (s : State) : (strobeIrqSlow s).cmdFault = s.cmdFault := rfl
@[simp] theorem strobeIrqSlow_cfg (s : State) : (strobeIrqSlow s).cfg = s.cfg := rfl
@[simp] theorem strobeIrqSlow_inputs (s : State) : (strobeIrqSlow s).inputs = s.inputs := rfl
@[simp] theorem strobeIrqSlow_cycle (s : State) : (strobeIrqSlow s).cycle = s.cycle := rfl

@[simp] theorem strobeIrqRx_tickEn (s : State) : (strobeIrqRx s).tickEn = s.tickEn := rfl
@[simp] theorem strobeIrqRx_preCnt (s : State) : (strobeIrqRx s).preCnt = s.preCnt := rfl
@[simp] theorem strobeIrqRx_baseCnt (s : State) : (strobeIrqRx s).baseCnt = s.baseCnt := rfl
@[simp] theorem strobeIrqRx_slowCnt (s : State) : (strobeIrqRx s).slowCnt = s.slowCnt := rfl
@[simp] theorem strobeIrqRx_fastSlot (s : State) : (strobeIrqRx s).fastSlot = s.fastSlot := rfl
@[simp] theorem strobeIrqRx_slowSlot (s : State) : (strobeIrqRx s).slowSlot = s.slowSlot := rfl
@[simp] theorem strobeIrqRx_lightEn (s : State) : (strobeIrqRx s).lightEn = s.lightEn := rfl
@[simp] theorem strobeIrqRx_mask (s : State) : (strobeIrqRx s).mask = s.mask := rfl
@[simp] theorem strobeIrqRx_brightness (s : State) : (strobeIrqRx s).brightness = s.brightness := rfl
@[simp] theorem strobeIrqRx_pwmCnt (s : State) : (strobeIrqRx s).pwmCnt = s.pwmCnt := rfl
@[simp] theorem strobeIrqRx_gate (s : State) : (strobeIrqRx s).gate = s.gate := rfl
@[simp] theorem strobeIrqRx_irEn (s : State) : (strobeIrqRx s).irEn = s.irEn := rfl
@[simp] theorem strobeIrqRx_carCnt (s : State) : (strobeIrqRx s).carCnt = s.carCnt := rfl
@[simp] theorem strobeIrqRx_carrier (s : State) : (strobeIrqRx s).carrier = s.carrier := rfl
@[simp] theorem strobeIrqRx_txBusy (s : State) : (strobeIrqRx s).txBusy = s.txBusy := rfl
@[simp] theorem strobeIrqRx_txData (s : State) : (strobeIrqRx s).txData = s.txData := rfl
@[simp] theorem strobeIrqRx_txIdx (s : State) : (strobeIrqRx s).txIdx = s.txIdx := rfl
@[simp] theorem strobeIrqRx_txCnt (s : State) : (strobeIrqRx s).txCnt = s.txCnt := rfl
@[simp] theorem strobeIrqRx_rxIntent (s : State) : (strobeIrqRx s).rxIntent = s.rxIntent := rfl
@[simp] theorem strobeIrqRx_rxHwEn (s : State) : (strobeIrqRx s).rxHwEn = s.rxHwEn := rfl
@[simp] theorem strobeIrqRx_rxPrev (s : State) : (strobeIrqRx s).rxPrev = s.rxPrev := rfl
@[simp] theorem strobeIrqRx_rxBusy (s : State) : (strobeIrqRx s).rxBusy = s.rxBusy := rfl
@[simp] theorem strobeIrqRx_rxIdx (s : State) : (strobeIrqRx s).rxIdx = s.rxIdx := rfl
@[simp] theorem strobeIrqRx_rxCnt (s : State) : (strobeIrqRx s).rxCnt = s.rxCnt := rfl
@[simp] theorem strobeIrqRx_rxShift (s : State) : (strobeIrqRx s).rxShift = s.rxShift := rfl
@[simp] theorem strobeIrqRx_rxData (s : State) : (strobeIrqRx s).rxData = s.rxData := rfl
@[simp] theorem strobeIrqRx_rxhReg (s : State) : (strobeIrqRx s).rxhReg = s.rxhReg := rfl
@[simp] theorem strobeIrqRx_txpReg (s : State) : (strobeIrqRx s).txpReg = s.txpReg := rfl
@[simp] theorem strobeIrqRx_evFast (s : State) : (strobeIrqRx s).evFast = s.evFast := rfl
@[simp] theorem strobeIrqRx_evSlow (s : State) : (strobeIrqRx s).evSlow = s.evSlow := rfl
@[simp] theorem strobeIrqRx_irqFast (s : State) : (strobeIrqRx s).irqFast = s.irqFast := rfl
@[simp] theorem strobeIrqRx_irqSlow (s : State) : (strobeIrqRx s).irqSlow = s.irqSlow := rfl
@[simp] theorem strobeIrqRx_irqRx (s : State) : (strobeIrqRx s).irqRx = true := rfl
@[simp] theorem strobeIrqRx_provTake (s : State) : (strobeIrqRx s).provTake = s.provTake := rfl
@[simp] theorem strobeIrqRx_txDone (s : State) : (strobeIrqRx s).txDone = s.txDone := rfl
@[simp] theorem strobeIrqRx_cmdFault (s : State) : (strobeIrqRx s).cmdFault = s.cmdFault := rfl
@[simp] theorem strobeIrqRx_cfg (s : State) : (strobeIrqRx s).cfg = s.cfg := rfl
@[simp] theorem strobeIrqRx_inputs (s : State) : (strobeIrqRx s).inputs = s.inputs := rfl
@[simp] theorem strobeIrqRx_cycle (s : State) : (strobeIrqRx s).cycle = s.cycle := rfl

@[simp] theorem strobeProvTake_tickEn (s : State) : (strobeProvTake s).tickEn = s.tickEn := rfl
@[simp] theorem strobeProvTake_preCnt (s : State) : (strobeProvTake s).preCnt = s.preCnt := rfl
@[simp] theorem strobeProvTake_baseCnt (s : State) : (strobeProvTake s).baseCnt = s.baseCnt := rfl
@[simp] theorem strobeProvTake_slowCnt (s : State) : (strobeProvTake s).slowCnt = s.slowCnt := rfl
@[simp] theorem strobeProvTake_fastSlot (s : State) : (strobeProvTake s).fastSlot = s.fastSlot := rfl
@[simp] theorem strobeProvTake_slowSlot (s : State) : (strobeProvTake s).slowSlot = s.slowSlot := rfl
@[simp] theorem strobeProvTake_lightEn (s : State) : (strobeProvTake s).lightEn = s.lightEn := rfl
@[simp] theorem strobeProvTake_mask (s : State) : (strobeProvTake s).mask = s.mask := rfl
@[simp] theorem strobeProvTake_brightness (s : State) : (strobeProvTake s).brightness = s.brightness := rfl
@[simp] theorem strobeProvTake_pwmCnt (s : State) : (strobeProvTake s).pwmCnt = s.pwmCnt := rfl
@[simp] theorem strobeProvTake_gate (s : State) : (strobeProvTake s).gate = s.gate := rfl
@[simp] theorem strobeProvTake_irEn (s : State) : (strobeProvTake s).irEn = s.irEn := rfl
@[simp] theorem strobeProvTake_carCnt (s : State) : (strobeProvTake s).carCnt = s.carCnt := rfl
@[simp] theorem strobeProvTake_carrier (s : State) : (strobeProvTake s).carrier = s.carrier := rfl
@[simp] theorem strobeProvTake_txBusy (s : State) : (strobeProvTake s).txBusy = s.txBusy := rfl
@[simp] theorem strobeProvTake_txData (s : State) : (strobeProvTake s).txData = s.txData := rfl
@[simp] theorem strobeProvTake_txIdx (s : State) : (strobeProvTake s).txIdx = s.txIdx := rfl
@[simp] theorem strobeProvTake_txCnt (s : State) : (strobeProvTake s).txCnt = s.txCnt := rfl
@[simp] theorem strobeProvTake_rxIntent (s : State) : (strobeProvTake s).rxIntent = s.rxIntent := rfl
@[simp] theorem strobeProvTake_rxHwEn (s : State) : (strobeProvTake s).rxHwEn = s.rxHwEn := rfl
@[simp] theorem strobeProvTake_rxPrev (s : State) : (strobeProvTake s).rxPrev = s.rxPrev := rfl
@[simp] theorem strobeProvTake_rxBusy (s : State) : (strobeProvTake s).rxBusy = s.rxBusy := rfl
@[simp] theorem strobeProvTake_rxIdx (s : State) : (strobeProvTake s).rxIdx = s.rxIdx := rfl
@[simp] theorem strobeProvTake_rxCnt (s : State) : (strobeProvTake s).rxCnt = s.rxCnt := rfl
@[simp] theorem strobeProvTake_rxShift (s : State) : (strobeProvTake s).rxShift = s.rxShift := rfl
@[simp] theorem strobeProvTake_rxData (s : State) : (strobeProvTake s).rxData = s.rxData := rfl
@[simp] theorem strobeProvTake_rxhReg (s : State) : (strobeProvTake s).rxhReg = s.rxhReg := rfl
@[simp] theorem strobeProvTake_txpReg (s : State) : (strobeProvTake s).txpReg = s.txpReg := rfl
@[simp] theorem strobeProvTake_evFast (s : State) : (strobeProvTake s).evFast = s.evFast := rfl
@[simp] theorem strobeProvTake_evSlow (s : State) : (strobeProvTake s).evSlow = s.evSlow := rfl
@[simp] theorem strobeProvTake_irqFast (s : State) : (strobeProvTake s).irqFast = s.irqFast := rfl
@[simp] theorem strobeProvTake_irqSlow (s : State) : (strobeProvTake s).irqSlow = s.irqSlow := rfl
@[simp] theorem strobeProvTake_irqRx (s : State) : (strobeProvTake s).irqRx = s.irqRx := rfl
@[simp] theorem strobeProvTake_provTake (s : State) : (strobeProvTake s).provTake = true := rfl
@[simp] theorem strobeProvTake_txDone (s : State) : (strobeProvTake s).txDone = s.txDone := rfl
@[simp] theorem strobeProvTake_cmdFault (s : State) : (strobeProvTake s).cmdFault = s.cmdFault := rfl
@[simp] theorem strobeProvTake_cfg (s : State) : (strobeProvTake s).cfg = s.cfg := rfl
@[simp] theorem strobeProvTake_inputs (s : State) : (strobeProvTake s).inputs = s.inputs := rfl
@[simp] theorem strobeProvTake_cycle (s : State) : (strobeProvTake s).cycle = s.cycle := rfl

@[simp] theorem strobeTxDone_tickEn (s : State) : (strobeTxDone s).tickEn = s.tickEn := rfl
@[simp] theorem strobeTxDone_preCnt (s : State) : (strobeTxDone s).preCnt = s.preCnt := rfl
@[simp] theorem strobeTxDone_baseCnt (s : State) : (strobeTxDone s).baseCnt = s.baseCnt := rfl
@[simp] theorem strobeTxDone_slowCnt (s : State) : (strobeTxDone s).slowCnt = s.slowCnt := rfl
@[simp] theorem strobeTxDone_fastSlot (s : State) : (strobeTxDone s).fastSlot = s.fastSlot := rfl
@[simp] theorem strobeTxDone_slowSlot (s : State) : (strobeTxDone s).slowSlot = s.slowSlot := rfl
@[simp] theorem strobeTxDone_lightEn (s : State) : (strobeTxDone s).lightEn = s.lightEn := rfl
@[simp] theorem strobeTxDone_mask (s : State) : (strobeTxDone s).mask = s.mask := rfl
@[simp] theorem strobeTxDone_brightness (s : State) : (strobeTxDone s).brightness = s.brightness := rfl
@[simp] theorem strobeTxDone_pwmCnt (s : State) : (strobeTxDone s).pwmCnt = s.pwmCnt := rfl
@[simp] theorem strobeTxDone_gate (s : State) : (strobeTxDone s).gate = s.gate := rfl
@[simp] theorem strobeTxDone_irEn (s : State) : (strobeTxDone s).irEn = s.irEn := rfl
@[simp] theorem strobeTxDone_carCnt (s : State) : (strobeTxDone s).carCnt = s.carCnt := rfl
@[simp] theorem strobeTxDone_carrier (s : State) : (strobeTxDone s).carrier = s.carrier := rfl
@[simp] theorem strobeTxDone_txBusy (s : State) : (strobeTxDone s).txBusy = s.txBusy := rfl
@[simp] theorem strobeTxDone_txData (s : State) : (strobeTxDone s).txData = s.txData := rfl
@[simp] theorem strobeTxDone_txIdx (s : State) : (strobeTxDone s).txIdx = s.txIdx := rfl
@[simp] theorem strobeTxDone_txCnt (s : State) : (strobeTxDone s).txCnt = s.txCnt := rfl
@[simp] theorem strobeTxDone_rxIntent (s : State) : (strobeTxDone s).rxIntent = s.rxIntent := rfl
@[simp] theorem strobeTxDone_rxHwEn (s : State) : (strobeTxDone s).rxHwEn = s.rxHwEn := rfl
@[simp] theorem strobeTxDone_rxPrev (s : State) : (strobeTxDone s).rxPrev = s.rxPrev := rfl
@[simp] theorem strobeTxDone_rxBusy (s : State) : (strobeTxDone s).rxBusy = s.rxBusy := rfl
@[simp] theorem strobeTxDone_rxIdx (s : State) : (strobeTxDone s).rxIdx = s.rxIdx := rfl
@[simp] theorem strobeTxDone_rxCnt (s : State) : (strobeTxDone s).rxCnt = s.rxCnt := rfl
@[simp] theorem strobeTxDone_rxShift (s : State) : (strobeTxDone s).rxShift = s.rxShift := rfl
@[simp] theorem strobeTxDone_rxData (s : State) : (strobeTxDone s).rxData = s.rxData := rfl
@[simp] theorem strobeTxDone_rxhReg (s : State) : (strobeTxDone s).rxhReg = s.rxhReg := rfl
@[simp] theorem strobeTxDone_txpReg (s : State) : (strobeTxDone s).txpReg = s.txpReg := rfl
@[simp] theorem strobeTxDone_evFast (s : State) : (strobeTxDone s).evFast = s.evFast := rfl
@[simp] theorem strobeTxDone_evSlow (s : State) : (strobeTxDone s).evSlow = s.evSlow := rfl
@[simp] theorem strobeTxDone_irqFast (s : State) : (strobeTxDone s).irqFast = s.irqFast := rfl
@[simp] theorem strobeTxDone_irqSlow (s : State) : (strobeTxDone s).irqSlow = s.irqSlow := rfl
@[simp] theorem strobeTxDone_irqRx (s : State) : (strobeTxDone s).irqRx = s.irqRx := rfl
@[simp] theorem strobeTxDone_provTake (s : State) : (strobeTxDone s).provTake = s.provTake := rfl
@[simp] theorem strobeTxDone_txDone (s : State) : (strobeTxDone s).txDone = true := rfl
@[simp] theorem strobeTxDone_cmdFault (s : State) : (strobeTxDone s).cmdFault = s.cmdFault := rfl
@[simp] theorem strobeTxDone_cfg (s : State) : (strobeTxDone s).cfg = s.cfg := rfl
@[simp] theorem strobeTxDone_inputs (s : State) : (strobeTxDone s).inputs = s.inputs := rfl
@[simp] theorem strobeTxDone_cycle (s : State) : (strobeTxDone s).cycle = s.cycle := rfl

@[simp] theorem raiseCmdFault_tickEn (s : State) : (raiseCmdFault s).tickEn = s.tickEn := rfl
@[simp] theorem raiseCmdFault_preCnt (s : State) : (raiseCmdFault s).preCnt = s.preCnt := rfl
@[simp] theorem raiseCmdFault_baseCnt (s : State) : (raiseCmdFault s).baseCnt = s.baseCnt := rfl
@[simp] theorem raiseCmdFault_slowCnt (s : State) : (raiseCmdFault s).slowCnt = s.slowCnt := rfl
@[simp] theorem raiseCmdFault_fastSlot (s : State) : (raiseCmdFault s).fastSlot = s.fastSlot := rfl
@[simp] theorem raiseCmdFault_slowSlot (s : State) : (raiseCmdFault s).slowSlot = s.slowSlot := rfl
@[simp] theorem raiseCmdFault_lightEn (s : State) : (raiseCmdFault s).lightEn = s.lightEn := rfl
@[simp] theorem raiseCmdFault_mask (s : State) : (raiseCmdFault s).mask = s.mask := rfl
@[simp] theorem raiseCmdFault_brightness (s : State) : (raiseCmdFault s).brightness = s.brightness := rfl
@[simp] theorem raiseCmdFault_pwmCnt (s : State) : (raiseCmdFault s).pwmCnt = s.pwmCnt := rfl
@[simp] theorem raiseCmdFault_gate (s : State) : (raiseCmdFault s).gate = s.gate := rfl
@[simp] theorem raiseCmdFault_irEn (s : State) : (raiseCmdFault s).irEn = s.irEn := rfl
@[simp] theorem raiseCmdFault_carCnt (s : State) : (raiseCmdFault s).carCnt = s.carCnt := rfl
@[simp] theorem raiseCmdFault_carrier (s : State) : (raiseCmdFault s).carrier = s.carrier := rfl
@[simp] theorem raiseCmdFault_txBusy (s : State) : (raiseCmdFault s).txBusy = s.txBusy := rfl
@[simp] theorem raiseCmdFault_txData (s : State) : (raiseCmdFault s).txData = s.txData := rfl
@[simp] theorem raiseCmdFault_txIdx (s : State) : (raiseCmdFault s).txIdx = s.txIdx := rfl
@[simp] theorem raiseCmdFault_txCnt (s : State) : (raiseCmdFault s).txCnt = s.txCnt := rfl
@[simp] theorem raiseCmdFault_rxIntent (s : State) : (raiseCmdFault s).rxIntent = s.rxIntent := rfl
@[simp] theorem raiseCmdFault_rxHwEn (s : State) : (raiseCmdFault s).rxHwEn = s.rxHwEn := rfl
@[simp] theorem raiseCmdFault_rxPrev (s : State) : (raiseCmdFault s).rxPrev = s.rxPrev := rfl
@[simp] theorem raiseCmdFault_rxBusy (s : State) : (raiseCmdFault s).rxBusy = s.rxBusy := rfl
@[simp] theorem raiseCmdFault_rxIdx (s : State) : (raiseCmdFault s).rxIdx = s.rxIdx := rfl
@[simp] theorem raiseCmdFault_rxCnt (s : State) : (raiseCmdFault s).rxCnt = s.rxCnt := rfl
@[simp] theorem raiseCmdFault_rxShift (s : State) : (raiseCmdFault s).rxShift = s.rxShift := rfl
@[simp] theorem raiseCmdFault_rxData (s : State) : (raiseCmdFault s).rxData = s.rxData := rfl
@[simp] theorem raiseCmdFault_rxhReg (s : State) : (raiseCmdFault s).rxhReg = s.rxhReg := rfl
@[simp] theorem raiseCmdFault_txpReg (s : State) : (raiseCmdFault s).txpReg = s.txpReg := rfl
@[simp] theorem raiseCmdFault_evFast (s : State) : (raiseCmdFault s).evFast = s.evFast := rfl
@[simp] theorem raiseCmdFault_evSlow (s : State) : (raiseCmdFault s).evSlow = s.evSlow := rfl
@[simp] theorem raiseCmdFault_irqFast (s : State) : (raiseCmdFault s).irqFast = s.irqFast := rfl
@[simp] theorem raiseCmdFault_irqSlow (s : State) : (raiseCmdFault s).irqSlow = s.irqSlow := rfl
@[simp] theorem raiseCmdFault_irqRx (s : State) : (raiseCmdFault s).irqRx = s.irqRx := rfl
@[simp] theorem raiseCmdFault_provTake (s : State) : (raiseCmdFault s).provTake = s.provTake := rfl
@[simp] theorem raiseCmdFault_txDone (s : State) : (raiseCmdFault s).txDone = s.txDone := rfl
@[simp] theorem raiseCmdFault_cmdFault (s : State) : (raiseCmdFault s).cmdFault = true := rfl
@[simp] theorem raiseCmdFault_cfg (s : State) : (raiseCmdFault s).cfg = s.cfg := rfl
@[simp] theorem raiseCmdFault_inputs (s : State) : (raiseCmdFault s).inputs = s.inputs := rfl
@[simp] theorem raiseCmdFault_cycle (s : State) : (raiseCmdFault s).cycle = s.cycle := rfl

@[simp] theorem startTicks_tickEn (s : State) : (startTicks s).tickEn = true := rfl
@[simp] theorem startTicks_preCnt (s : State) : (startTicks s).preCnt = s.preCnt := rfl
@[simp] theorem startTicks_baseCnt (s : State) : (startTicks s).baseCnt = s.baseCnt := rfl
@[simp] theorem startTicks_slowCnt (s : State) : (startTicks s).slowCnt = s.slowCnt := rfl
@[simp] theorem startTicks_fastSlot (s : State) : (startTicks s).fastSlot = s.fastSlot := rfl
@[simp] theorem startTicks_slowSlot (s : State) : (startTicks s).slowSlot = s.slowSlot := rfl
@[simp] theorem startTicks_lightEn (s : State) : (startTicks s).lightEn = s.lightEn := rfl
@[simp] theorem startTicks_mask (s : State) : (startTicks s).mask = s.mask := rfl
@[simp] theorem startTicks_brightness (s : State) : (startTicks s).brightness = s.brightness := rfl
@[simp] theorem startTicks_pwmCnt (s : State) : (startTicks s).pwmCnt = s.pwmCnt := rfl
@[simp] theorem startTicks_gate (s : State) : (startTicks s).gate = s.gate := rfl
@[simp] theorem startTicks_irEn (s : State) : (startTicks s).irEn = s.irEn := rfl
@[simp] theorem startTicks_carCnt (s : State) : (startTicks s).carCnt = s.carCnt := rfl
@[simp] theorem startTicks_carrier (s : State) : (startTicks s).carrier = s.carrier := rfl
@[simp] theorem startTicks_txBusy (s : State) : (startTicks s).txBusy = s.txBusy := rfl
@[simp] theorem startTicks_txData (s : State) : (startTicks s).txData = s.txData := rfl
@[simp] theorem startTicks_txIdx (s : State) : (startTicks s).txIdx = s.txIdx := rfl
@[simp] theorem startTicks_txCnt (s : State) : (startTicks s).txCnt = s.txCnt := rfl
@[simp] theorem startTicks_rxIntent (s : State) : (startTicks s).rxIntent = s.rxIntent := rfl
@[simp] theorem startTicks_rxHwEn (s : State) : (startTicks s).rxHwEn = s.rxHwEn := rfl
@[simp] theorem startTicks_rxPrev (s : State) : (startTicks s).rxPrev = s.rxPrev := rfl
@[simp] theorem startTicks_rxBusy (s : State) : (startTicks s).rxBusy = s.rxBusy := rfl
@[simp] theorem startTicks_rxIdx (s : State) : (startTicks s).rxIdx = s.rxIdx := rfl
@[simp] theorem startTicks_rxCnt (s : State) : (startTicks s).rxCnt = s.rxCnt := rfl
@[simp] theorem startTicks_rxShift (s : State) : (startTicks s).rxShift = s.rxShift := rfl
@[simp] theorem startTicks_rxData (s : State) : (startTicks s).rxData = s.rxData := rfl
@[simp] theorem startTicks_rxhReg (s : State) : (startTicks s).rxhReg = s.rxhReg := rfl
@[simp] theorem startTicks_txpReg (s : State) : (startTicks s).txpReg = s.txpReg := rfl
@[simp] theorem startTicks_evFast (s : State) : (startTicks s).evFast = s.evFast := rfl
@[simp] theorem startTicks_evSlow (s : State) : (startTicks s).evSlow = s.evSlow := rfl
@[simp] theorem startTicks_irqFast (s : State) : (startTicks s).irqFast = s.irqFast := rfl
@[simp] theorem startTicks_irqSlow (s : State) : (startTicks s).irqSlow = s.irqSlow := rfl
@[simp] theorem startTicks_irqRx (s : State) : (startTicks s).irqRx = s.irqRx := rfl
@[simp] theorem startTicks_provTake (s : State) : (startTicks s).provTake = s.provTake := rfl
@[simp] theorem startTicks_txDone (s : State) : (startTicks s).txDone = s.txDone := rfl
@[simp] theorem startTicks_cmdFault (s : State) : (startTicks s).cmdFault = s.cmdFault := rfl
@[simp] theorem startTicks_cfg (s : State) : (startTicks s).cfg = s.cfg := rfl
@[simp] theorem startTicks_inputs (s : State) : (startTicks s).inputs = s.inputs := rfl
@[simp] theorem startTicks_cycle (s : State) : (startTicks s).cycle = s.cycle := rfl

@[simp] theorem rxHwDisable_tickEn (s : State) : (rxHwDisable s).tickEn = s.tickEn := rfl
@[simp] theorem rxHwDisable_preCnt (s : State) : (rxHwDisable s).preCnt = s.preCnt := rfl
@[simp] theorem rxHwDisable_baseCnt (s : State) : (rxHwDisable s).baseCnt = s.baseCnt := rfl
@[simp] theorem rxHwDisable_slowCnt (s : State) : (rxHwDisable s).slowCnt = s.slowCnt := rfl
@[simp] theorem rxHwDisable_fastSlot (s : State) : (rxHwDisable s).fastSlot = s.fastSlot := rfl
@[simp] theorem rxHwDisable_slowSlot (s : State) : (rxHwDisable s).slowSlot = s.slowSlot := rfl
@[simp] theorem rxHwDisable_lightEn (s : State) : (rxHwDisable s).lightEn = s.lightEn := rfl
@[simp] theorem rxHwDisable_mask (s : State) : (rxHwDisable s).mask = s.mask := rfl
@[simp] theorem rxHwDisable_brightness (s : State) : (rxHwDisable s).brightness = s.brightness := rfl
@[simp] theorem rxHwDisable_pwmCnt (s : State) : (rxHwDisable s).pwmCnt = s.pwmCnt := rfl
@[simp] theorem rxHwDisable_gate (s : State) : (rxHwDisable s).gate = s.gate := rfl
@[simp] theorem rxHwDisable_irEn (s : State) : (rxHwDisable s).irEn = s.irEn := rfl
@[simp] theorem rxHwDisable_carCnt (s : State) : (rxHwDisable s).carCnt = s.carCnt := rfl
@[simp] theorem rxHwDisable_carrier (s : State) : (rxHwDisable s).carrier = s.carrier := rfl
@[simp] theorem rxHwDisable_txBusy (s : State) : (rxHwDisable s).txBusy = s.txBusy := rfl
@[simp] theorem rxHwDisable_txData (s : State) : (rxHwDisable s).txData = s.txData := rfl
@[simp] theorem rxHwDisable_txIdx (s : State) : (rxHwDisable s).txIdx = s.txIdx := rfl
@[simp] theorem rxHwDisable_txCnt (s : State) : (rxHwDisable s).txCnt = s.txCnt := rfl
@[simp] theorem rxHwDisable_rxIntent (s : State) : (rxHwDisable s).rxIntent = s.rxIntent := rfl
@[simp] theorem rxHwDisable_rxHwEn (s : State) : (rxHwDisable s).rxHwEn = false := rfl
@[simp] theorem rxHwDisable_rxPrev (s : State) : (rxHwDisable s).rxPrev = s.rxPrev := rfl
@[simp] theorem rxHwDisable_rxBusy (s : State) : (rxHwDisable s).rxBusy = false := rfl
@[simp] theorem rxHwDisable_rxIdx (s : State) : (rxHwDisable s).rxIdx = s.rxIdx := rfl
@[simp] theorem rxHwDisable_rxCnt (s : State) : (rxHwDisable s).rxCnt = s.rxCnt := rfl
@[simp] theorem rxHwDisable_rxShift (s : State) : (rxHwDisable s).rxShift = s.rxShift := rfl
@[simp] theorem rxHwDisable_rxData (s : State) : (rxHwDisable s).rxData = s.rxData := rfl
@[simp] theorem rxHwDisable_rxhReg (s : State) : (rxHwDisable s).rxhReg = s.rxhReg := rfl
@[simp] theorem rxHwDisable_txpReg (s : State) : (rxHwDisable s).txpReg = s.txpReg := rfl
@[simp] theorem rxHwDisable_evFast (s : State) : (rxHwDisable s).evFast = s.evFast := rfl
@[simp] theorem rxHwDisable_evSlow (s : State) : (rxHwDisable s).evSlow = s.evSlow := rfl
@[simp] theorem rxHwDisable_irqFast (s : State) : (rxHwDisable s).irqFast = s.irqFast := rfl
@[simp] theorem rxHwDisable_irqSlow (s : State) : (rxHwDisable s).irqSlow = s.irqSlow := rfl
@[simp] theorem rxHwDisable_irqRx (s : State) : (rxHwDisable s).irqRx = s.irqRx := rfl
@[simp] theorem rxHwDisable_provTake (s : State) : (rxHwDisable s).provTake = s.provTake := rfl
@[simp] theorem rxHwDisable_txDone (s : State) : (rxHwDisable s).txDone = s.txDone := rfl
@[simp] theorem rxHwDisable_cmdFault (s : State) : (rxHwDisable s).cmdFault = s.cmdFault := rfl
@[simp] theorem rxHwDisable_cfg (s : State) : (rxHwDisable s).cfg = s.cfg := rfl
@[simp] theorem rxHwDisable_inputs (s : State) : (rxHwDisable s).inputs = s.inputs := rfl
@[simp] theorem rxHwDisable_cycle (s : State) : (rxHwDisable s).cycle = s.cycle := rfl

@[simp] theorem rxEnableBoth_tickEn (s : State) : (rxEnableBoth s).tickEn = s.tickEn := rfl
@[simp] theorem rxEnableBoth_preCnt (s : State) : (rxEnableBoth s).preCnt = s.preCnt := rfl
@[simp] theorem rxEnableBoth_baseCnt (s : State) : (rxEnableBoth s).baseCnt = s.baseCnt := rfl
@[simp] theorem rxEnableBoth_slowCnt (s : State) : (rxEnableBoth s).slowCnt = s.slowCnt := rfl
@[simp] theorem rxEnableBoth_fastSlot (s : State) : (rxEnableBoth s).fastSlot = s.fastSlot := rfl
@[simp] theorem rxEnableBoth_slowSlot (s : State) : (rxEnableBoth s).slowSlot = s.slowSlot := rfl
@[simp] theorem rxEnableBoth_lightEn (s : State) : (rxEnableBoth s).lightEn = s.lightEn := rfl
@[simp] theorem rxEnableBoth_mask (s : State) : (rxEnableBoth s).mask = s.mask := rfl
@[simp] theorem rxEnableBoth_brightness (s : State) : (rxEnableBoth s).brightness = s.brightness := rfl
@[simp] theorem rxEnableBoth_pwmCnt (s : State) : (rxEnableBoth s).pwmCnt = s.pwmCnt := rfl
@[simp] theorem rxEnableBoth_gate (s : State) : (rxEnableBoth s).gate = s.gate := rfl
@[simp] theorem rxEnableBoth_irEn (s : State) : (rxEnableBoth s).irEn = s.irEn := rfl
@[simp] theorem rxEnableBoth_carCnt (s : State) : (rxEnableBoth s).carCnt = s.carCnt := rfl
@[simp] theorem rxEnableBoth_carrier (s : State) : (rxEnableBoth s).carrier = s.carrier := rfl
@[simp] theorem rxEnableBoth_txBusy (s : State) : (rxEnableBoth s).txBusy = s.txBusy := rfl
@[simp] theorem rxEnableBoth_txData (s : State) : (rxEnableBoth s).txData = s.txData := rfl
@[simp] theorem rxEnableBoth_txIdx (s : State) : (rxEnableBoth s).txIdx = s.txIdx := rfl
@[simp] theorem rxEnableBoth_txCnt (s : State) : (rxEnableBoth s).txCnt = s.txCnt := rfl
@[simp] theorem rxEnableBoth_rxIntent (s : State) : (rxEnableBoth s).rxIntent = true := rfl
@[simp] theorem rxEnableBoth_rxHwEn (s : State) : (rxEnableBoth s).rxHwEn = true := rfl
@[simp] theorem rxEnableBoth_rxPrev (s : State) : (rxEnableBoth s).rxPrev = s.rxPrev := rfl
@[simp] theorem rxEnableBoth_rxBusy (s : State) : (rxEnableBoth s).rxBusy = s.rxBusy := rfl
@[simp] theorem rxEnableBoth_rxIdx (s : State) : (rxEnableBoth s).rxIdx = s.rxIdx := rfl
@[simp] theorem rxEnableBoth_rxCnt (s : State) : (rxEnableBoth s).rxCnt = s.rxCnt := rfl
@[simp] theorem rxEnableBoth_rxShift (s : State) : (rxEnableBoth s).rxShift = s.rxShift := rfl
@[simp] theorem rxEnableBoth_rxData (s : State) : (rxEnableBoth s).rxData = s.rxData := rfl
@[simp] theorem rxEnableBoth_rxhReg (s : State) : (rxEnableBoth s).rxhReg = s.rxhReg := rfl
@[simp] theorem rxEnableBoth_txpReg (s : State) : (rxEnableBoth s).txpReg = s.txpReg := rfl
@[simp] theorem rxEnableBoth_evFast (s : State) : (rxEnableBoth s).evFast = s.evFast := rfl
@[simp] theorem rxEnableBoth_evSlow (s : State) : (rxEnableBoth s).evSlow = s.evSlow := rfl
@[simp] theorem rxEnableBoth_irqFast (s : State) : (rxEnableBoth s).irqFast = s.irqFast := rfl
@[simp] theorem rxEnableBoth_irqSlow (s : State) : (rxEnableBoth s).irqSlow = s.irqSlow := rfl
@[simp] theorem rxEnableBoth_irqRx (s : State) : (rxEnableBoth s).irqRx = s.irqRx := rfl
@[simp] theorem rxEnableBoth_provTake (s : State) : (rxEnableBoth s).provTake = s.provTake := rfl
@[simp] theorem rxEnableBoth_txDone (s : State) : (rxEnableBoth s).txDone = s.txDone := rfl
@[simp] theorem rxEnableBoth_cmdFault (s : State) : (rxEnableBoth s).cmdFault = s.cmdFault := rfl
@[simp] theorem rxEnableBoth_cfg (s : State) : (rxEnableBoth s).cfg = s.cfg := rfl
@[simp] theorem rxEnableBoth_inputs (s : State) : (rxEnableBoth s).inputs = s.inputs := rfl
@[simp] theorem rxEnableBoth_cycle (s : State) : (rxEnableBoth s).cycle = s.cycle := rfl

@[simp] theorem startFrame_tickEn (b : Byte) (s : State) : (startFrame b s).tickEn = s.tickEn := rfl
@[simp] theorem startFrame_preCnt (b : Byte) (s : State) : (startFrame b s).preCnt = s.preCnt := rfl
@[simp] theorem startFrame_baseCnt (b : Byte) (s : State) : (startFrame b s).baseCnt = s.baseCnt := rfl
@[simp] theorem startFrame_slowCnt (b : Byte) (s : State) : (startFrame b s).slowCnt = s.slowCnt := rfl
@[simp] theorem startFrame_fastSlot (b : Byte) (s : State) : (startFrame b s).fastSlot = s.fastSlot := rfl
@[simp] theorem startFrame_slowSlot (b : Byte) (s : State) : (startFrame b s).slowSlot = s.slowSlot := rfl
@[simp] theorem startFrame_lightEn (b : Byte) (s : State) : (startFrame b s).lightEn = s.lightEn := rfl
@[simp] theorem startFrame_mask (b : Byte) (s : State) : (startFrame b s).mask = s.mask := rfl
@[simp] theorem startFrame_brightness (b : Byte) (s : State) : (startFrame b s).brightness = s.brightness := rfl
@[simp] theorem startFrame_pwmCnt (b : Byte) (s : State) : (startFrame b s).pwmCnt = s.pwmCnt := rfl
@[simp] theorem startFrame_gate (b : Byte) (s : State) : (startFrame b s).gate = s.gate := rfl
@[simp] theorem startFrame_irEn (b : Byte) (s : State) : (startFrame b s).irEn = s.irEn := rfl
@[simp] theorem startFrame_carCnt (b : Byte) (s : State) : (startFrame b s).carCnt = s.carCnt := rfl
@[simp] theorem startFrame_carrier (b : Byte) (s : State) : (startFrame b s).carrier = s.carrier := rfl
@[simp] theorem startFrame_txBusy (b : Byte) (s : State) : (startFrame b s).txBusy = true := rfl
@[simp] theorem startFrame_txData (b : Byte) (s : State) : (startFrame b s).txData = b := rfl
@[simp] theorem startFrame_txIdx (b : Byte) (s : State) : (startFrame b s).txIdx = 0 := rfl
@[simp] theorem startFrame_txCnt (b : Byte) (s : State) : (startFrame b s).txCnt = 0 := rfl
@[simp] theorem startFrame_rxIntent (b : Byte) (s : State) : (startFrame b s).rxIntent = s.rxIntent := rfl
@[simp] theorem startFrame_rxHwEn (b : Byte) (s : State) : (startFrame b s).rxHwEn = s.rxHwEn := rfl
@[simp] theorem startFrame_rxPrev (b : Byte) (s : State) : (startFrame b s).rxPrev = s.rxPrev := rfl
@[simp] theorem startFrame_rxBusy (b : Byte) (s : State) : (startFrame b s).rxBusy = s.rxBusy := rfl
@[simp] theorem startFrame_rxIdx (b : Byte) (s : State) : (startFrame b s).rxIdx = s.rxIdx := rfl
@[simp] theorem startFrame_rxCnt (b : Byte) (s : State) : (startFrame b s).rxCnt = s.rxCnt := rfl
@[simp] theorem startFrame_rxShift (b : Byte) (s : State) : (startFrame b s).rxShift = s.rxShift := rfl
@[simp] theorem startFrame_rxData (b : Byte) (s : State) : (startFrame b s).rxData = s.rxData := rfl
@[simp] theorem startFrame_rxhReg (b : Byte) (s : State) : (startFrame b s).rxhReg = s.rxhReg := rfl
@[simp] theorem startFrame_txpReg (b : Byte) (s : State) : (startFrame b s).txpReg = s.txpReg := rfl
@[simp] theorem startFrame_evFast (b : Byte) (s : State) : (startFrame b s).evFast = s.evFast := rfl
@[simp] theorem startFrame_evSlow (b : Byte) (s : State) : (startFrame b s).evSlow = s.evSlow := rfl
@[simp] theorem startFrame_irqFast (b : Byte) (s : State) : (startFrame b s).irqFast = s.irqFast := rfl
@[simp] theorem startFrame_irqSlow (b : Byte) (s : State) : (startFrame b s).irqSlow = s.irqSlow := rfl
@[simp] theorem startFrame_irqRx (b : Byte) (s : State) : (startFrame b s).irqRx = s.irqRx := rfl
@[simp] theorem startFrame_provTake (b : Byte) (s : State) : (startFrame b s).provTake = s.provTake := rfl
@[simp] theorem startFrame_txDone (b : Byte) (s : State) : (startFrame b s).txDone = s.txDone := rfl
@[simp] theorem startFrame_cmdFault (b : Byte) (s : State) : (startFrame b s).cmdFault = s.cmdFault := rfl
@[simp] theorem startFrame_cfg (b : Byte) (s : State) : (startFrame b s).cfg = s.cfg := rfl
@[simp] theorem startFrame_inputs (b : Byte) (s : State) : (startFrame b s).inputs = s.inputs := rfl
@[simp] theorem startFrame_cycle (b : Byte) (s : State) : (startFrame b s).cycle = s.cycle := rfl

@[simp] theorem setRxHwEn_tickEn (s : State) : (setRxHwEn s).tickEn = s.tickEn := rfl
@[simp] theorem setRxHwEn_preCnt (s : State) : (setRxHwEn s).preCnt = s.preCnt := rfl
@[simp] theorem setRxHwEn_baseCnt (s : State) : (setRxHwEn s).baseCnt = s.baseCnt := rfl
@[simp] theorem setRxHwEn_slowCnt (s : State) : (setRxHwEn s).slowCnt = s.slowCnt := rfl
@[simp] theorem setRxHwEn_fastSlot (s : State) : (setRxHwEn s).fastSlot = s.fastSlot := rfl
@[simp] theorem setRxHwEn_slowSlot (s : State) : (setRxHwEn s).slowSlot = s.slowSlot := rfl
@[simp] theorem setRxHwEn_lightEn (s : State) : (setRxHwEn s).lightEn = s.lightEn := rfl
@[simp] theorem setRxHwEn_mask (s : State) : (setRxHwEn s).mask = s.mask := rfl
@[simp] theorem setRxHwEn_brightness (s : State) : (setRxHwEn s).brightness = s.brightness := rfl
@[simp] theorem setRxHwEn_pwmCnt (s : State) : (setRxHwEn s).pwmCnt = s.pwmCnt := rfl
@[simp] theorem setRxHwEn_gate (s : State) : (setRxHwEn s).gate = s.gate := rfl
@[simp] theorem setRxHwEn_irEn (s : State) : (setRxHwEn s).irEn = s.irEn := rfl
@[simp] theorem setRxHwEn_carCnt (s : State) : (setRxHwEn s).carCnt = s.carCnt := rfl
@[simp] theorem setRxHwEn_carrier (s : State) : (setRxHwEn s).carrier = s.carrier := rfl
@[simp] theorem setRxHwEn_txBusy (s : State) : (setRxHwEn s).txBusy = s.txBusy := rfl
@[simp] theorem setRxHwEn_txData (s : State) : (setRxHwEn s).txData = s.txData := rfl
@[simp] theorem setRxHwEn_txIdx (s : State) : (setRxHwEn s).txIdx = s.txIdx := rfl
@[simp] theorem setRxHwEn_txCnt (s : State) : (setRxHwEn s).txCnt = s.txCnt := rfl
@[simp] theorem setRxHwEn_rxIntent (s : State) : (setRxHwEn s).rxIntent = s.rxIntent := rfl
@[simp] theorem setRxHwEn_rxHwEn (s : State) : (setRxHwEn s).rxHwEn = true := rfl
@[simp] theorem setRxHwEn_rxPrev (s : State) : (setRxHwEn s).rxPrev = s.rxPrev := rfl
@[simp] theorem setRxHwEn_rxBusy (s : State) : (setRxHwEn s).rxBusy = s.rxBusy := rfl
@[simp] theorem setRxHwEn_rxIdx (s : State) : (setRxHwEn s).rxIdx = s.rxIdx := rfl
@[simp] theorem setRxHwEn_rxCnt (s : State) : (setRxHwEn s).rxCnt = s.rxCnt := rfl
@[simp] theorem setRxHwEn_rxShift (s : State) : (setRxHwEn s).rxShift = s.rxShift := rfl
@[simp] theorem setRxHwEn_rxData (s : State) : (setRxHwEn s).rxData = s.rxData := rfl
@[simp] theorem setRxHwEn_rxhReg (s : State) : (setRxHwEn s).rxhReg = s.rxhReg := rfl
@[simp] theorem setRxHwEn_txpReg (s : State) : (setRxHwEn s).txpReg = s.txpReg := rfl
@[simp] theorem setRxHwEn_evFast (s : State) : (setRxHwEn s).evFast = s.evFast := rfl
@[simp] theorem setRxHwEn_evSlow (s : State) : (setRxHwEn s).evSlow = s.evSlow := rfl
@[simp] theorem setRxHwEn_irqFast (s : State) : (setRxHwEn s).irqFast = s.irqFast := rfl
@[simp] theorem setRxHwEn_irqSlow (s : State) : (setRxHwEn s).irqSlow = s.irqSlow := rfl
@[simp] theorem setRxHwEn_irqRx (s : State) : (setRxHwEn s).irqRx = s.irqRx := rfl
@[simp] theorem setRxHwEn_provTake (s : State) : (setRxHwEn s).provTake = s.provTake := rfl
@[simp] theorem setRxHwEn_txDone (s : State) : (setRxHwEn s).txDone = s.txDone := rfl
@[simp] theorem setRxHwEn_cmdFault (s : State) : (setRxHwEn s).cmdFault = s.cmdFault := rfl
@[simp] theorem setRxHwEn_cfg (s : State) : (setRxHwEn s).cfg = s.cfg := rfl
@[simp] theorem setRxHwEn_inputs (s : State) : (setRxHwEn s).inputs = s.inputs := rfl
@[simp] theorem setRxHwEn_cycle (s : State) : (setRxHwEn s).cycle = s.cycle := rfl

@[simp] theorem setTxCnt_tickEn (n : Nat) (s : State) : (setTxCnt n s).tickEn = s.tickEn := rfl
@[simp] theorem setTxCnt_preCnt (n : Nat) (s : State) : (setTxCnt n s).preCnt = s.preCnt := rfl
@[simp] theorem setTxCnt_baseCnt (n : Nat) (s : State) : (setTxCnt n s).baseCnt = s.baseCnt := rfl
@[simp] theorem setTxCnt_slowCnt (n : Nat) (s : State) : (setTxCnt n s).slowCnt = s.slowCnt := rfl
@[simp] theorem setTxCnt_fastSlot (n : Nat) (s : State) : (setTxCnt n s).fastSlot = s.fastSlot := rfl
@[simp] theorem setTxCnt_slowSlot (n : Nat) (s : State) : (setTxCnt n s).slowSlot = s.slowSlot := rfl
@[simp] theorem setTxCnt_lightEn (n : Nat) (s : State) : (setTxCnt n s).lightEn = s.lightEn := rfl
@[simp] theorem setTxCnt_mask (n : Nat) (s : State) : (setTxCnt n s).mask = s.mask := rfl
@[simp] theorem setTxCnt_brightness (n : Nat) (s : State) : (setTxCnt n s).brightness = s.brightness := rfl
@[simp] theorem setTxCnt_pwmCnt (n : Nat) (s : State) : (setTxCnt n s).pwmCnt = s.pwmCnt := rfl
@[simp] theorem setTxCnt_gate (n : Nat) (s : State) : (setTxCnt n s).gate = s.gate := rfl
@[simp] theorem setTxCnt_irEn (n : Nat) (s : State) : (setTxCnt n s).irEn = s.irEn := rfl
@[simp] theorem setTxCnt_carCnt (n : Nat) (s : State) : (setTxCnt n s).carCnt = s.carCnt := rfl
@[simp] theorem setTxCnt_carrier (n : Nat) (s : State) : (setTxCnt n s).carrier = s.carrier := rfl
@[simp] theorem setTxCnt_txBusy (n : Nat) (s : State) : (setTxCnt n s).txBusy = s.txBusy := rfl
@[simp] theorem setTxCnt_txData (n : Nat) (s : State) : (setTxCnt n s).txData = s.txData := rfl
@[simp] theorem setTxCnt_txIdx (n : Nat) (s : State) : (setTxCnt n s).txIdx = s.txIdx := rfl
@[simp] theorem setTxCnt_txCnt (n : Nat) (s : State) : (setTxCnt n s).txCnt = n := rfl
@[simp] theorem setTxCnt_rxIntent (n : Nat) (s : State) : (setTxCnt n s).rxIntent = s.rxIntent := rfl
@[simp] theorem setTxCnt_rxHwEn (n : Nat) (s : State) : (setTxCnt n s).rxHwEn = s.rxHwEn := rfl
@[simp] theorem setTxCnt_rxPrev (n : Nat) (s : State) : (setTxCnt n s).rxPrev = s.rxPrev := rfl
@[simp] theorem setTxCnt_rxBusy (n : Nat) (s : State) : (setTxCnt n s).rxBusy = s.rxBusy := rfl
@[simp] theorem setTxCnt_rxIdx (n : Nat) (s : State) : (setTxCnt n s).rxIdx = s.rxIdx := rfl
@[simp] theorem setTxCnt_rxCnt (n : Nat) (s : State) : (setTxCnt n s).rxCnt = s.rxCnt := rfl
@[simp] theorem setTxCnt_rxShift (n : Nat) (s : State) : (setTxCnt n s).rxShift = s.rxShift := rfl
@[simp] theorem setTxCnt_rxData (n : Nat) (s : State) : (setTxCnt n s).rxData = s.rxData := rfl
@[simp] theorem setTxCnt_rxhReg (n : Nat) (s : State) : (setTxCnt n s).rxhReg = s.rxhReg := rfl
@[simp] theorem setTxCnt_txpReg (n : Nat) (s : State) : (setTxCnt n s).txpReg = s.txpReg := rfl
@[simp] theorem setTxCnt_evFast (n : Nat) (s : State) : (setTxCnt n s).evFast = s.evFast := rfl
@[simp] theorem setTxCnt_evSlow (n : Nat) (s : State) : (setTxCnt n s).evSlow = s.evSlow := rfl
@[simp] theorem setTxCnt_irqFast (n : Nat) (s : State) : (setTxCnt n s).irqFast = s.irqFast := rfl
@[simp] theorem setTxCnt_irqSlow (n : Nat) (s : State) : (setTxCnt n s).irqSlow = s.irqSlow := rfl
@[simp] theorem setTxCnt_irqRx (n : Nat) (s : State) : (setTxCnt n s).irqRx = s.irqRx := rfl
@[simp] theorem setTxCnt_provTake (n : Nat) (s : State) : (setTxCnt n s).provTake = s.provTake := rfl
@[simp] theorem setTxCnt_txDone (n : Nat) (s : State) : (setTxCnt n s).txDone = s.txDone := rfl
@[simp] theorem setTxCnt_cmdFault (n : Nat) (s : State) : (setTxCnt n s).cmdFault = s.cmdFault := rfl
@[simp] theorem setTxCnt_cfg (n : Nat) (s : State) : (setTxCnt n s).cfg = s.cfg := rfl
@[simp] theorem setTxCnt_inputs (n : Nat) (s : State) : (setTxCnt n s).inputs = s.inputs := rfl
@[simp] theorem setTxCnt_cycle (n : Nat) (s : State) : (setTxCnt n s).cycle = s.cycle := rfl

@[simp] theorem setTxIdx_tickEn (n : Nat) (s : State) : (setTxIdx n s).tickEn = s.tickEn := rfl
@[simp] theorem setTxIdx_preCnt (n : Nat) (s : State) : (setTxIdx n s).preCnt = s.preCnt := rfl
@[simp] theorem setTxIdx_baseCnt (n : Nat) (s : State) : (setTxIdx n s).baseCnt = s.baseCnt := rfl
@[simp] theorem setTxIdx_slowCnt (n : Nat) (s : State) : (setTxIdx n s).slowCnt = s.slowCnt := rfl
@[simp] theorem setTxIdx_fastSlot (n : Nat) (s : State) : (setTxIdx n s).fastSlot = s.fastSlot := rfl
@[simp] theorem setTxIdx_slowSlot (n : Nat) (s : State) : (setTxIdx n s).slowSlot = s.slowSlot := rfl
@[simp] theorem setTxIdx_lightEn (n : Nat) (s : State) : (setTxIdx n s).lightEn = s.lightEn := rfl
@[simp] theorem setTxIdx_mask (n : Nat) (s : State) : (setTxIdx n s).mask = s.mask := rfl
@[simp] theorem setTxIdx_brightness (n : Nat) (s : State) : (setTxIdx n s).brightness = s.brightness := rfl
@[simp] theorem setTxIdx_pwmCnt (n : Nat) (s : State) : (setTxIdx n s).pwmCnt = s.pwmCnt := rfl
@[simp] theorem setTxIdx_gate (n : Nat) (s : State) : (setTxIdx n s).gate = s.gate := rfl
@[simp] theorem setTxIdx_irEn (n : Nat) (s : State) : (setTxIdx n s).irEn = s.irEn := rfl
@[simp] theorem setTxIdx_carCnt (n : Nat) (s : State) : (setTxIdx n s).carCnt = s.carCnt := rfl
@[simp] theorem setTxIdx_carrier (n : Nat) (s : State) : (setTxIdx n s).carrier = s.carrier := rfl
@[simp] theorem setTxIdx_txBusy (n : Nat) (s : State) : (setTxIdx n s).txBusy = s.txBusy := rfl
@[simp] theorem setTxIdx_txData (n : Nat) (s : State) : (setTxIdx n s).txData = s.txData := rfl
@[simp] theorem setTxIdx_txIdx (n : Nat) (s : State) : (setTxIdx n s).txIdx = n := rfl
@[simp] theorem setTxIdx_txCnt (n : Nat) (s : State) : (setTxIdx n s).txCnt = s.txCnt := rfl
@[simp] theorem setTxIdx_rxIntent (n : Nat) (s : State) : (setTxIdx n s).rxIntent = s.rxIntent := rfl
@[simp] theorem setTxIdx_rxHwEn (n : Nat) (s : State) : (setTxIdx n s).rxHwEn = s.rxHwEn := rfl
@[simp] theorem setTxIdx_rxPrev (n : Nat) (s : State) : (setTxIdx n s).rxPrev = s.rxPrev := rfl
@[simp] theorem setTxIdx_rxBusy (n : Nat) (s : State) : (setTxIdx n s).rxBusy = s.rxBusy := rfl
@[simp] theorem setTxIdx_rxIdx (n : Nat) (s : State) : (setTxIdx n s).rxIdx = s.rxIdx := rfl
@[simp] theorem setTxIdx_rxCnt (n : Nat) (s : State) : (setTxIdx n s).rxCnt = s.rxCnt := rfl
@[simp] theorem setTxIdx_rxShift (n : Nat) (s : State) : (setTxIdx n s).rxShift = s.rxShift := rfl
@[simp] theorem setTxIdx_rxData (n : Nat) (s : State) : (setTxIdx n s).rxData = s.rxData := rfl
@[simp] theorem setTxIdx_rxhReg (n : Nat) (s : State) : (setTxIdx n s).rxhReg = s.rxhReg := rfl
@[simp] theorem setTxIdx_txpReg (n : Nat) (s : State) : (setTxIdx n s).txpReg = s.txpReg := rfl
@[simp] theorem setTxIdx_evFast (n : Nat) (s : State) : (setTxIdx n s).evFast = s.evFast := rfl
@[simp] theorem setTxIdx_evSlow (n : Nat) (s : State) : (setTxIdx n s).evSlow = s.evSlow := rfl
@[simp] theorem setTxIdx_irqFast (n : Nat) (s : State) : (setTxIdx n s).irqFast = s.irqFast := rfl
@[simp] theorem setTxIdx_irqSlow (n : Nat) (s : State) : (setTxIdx n s).irqSlow = s.irqSlow := rfl
@[simp] theorem setTxIdx_irqRx (n : Nat) (s : State) : (setTxIdx n s).irqRx = s.irqRx := rfl
@[simp] theorem setTxIdx_provTake (n : Nat) (s : State) : (setTxIdx n s).provTake = s.provTake := rfl
@[simp] theorem setTxIdx_txDone (n : Nat) (s : State) : (setTxIdx n s).txDone = s.txDone := rfl
@[simp] theorem setTxIdx_cmdFault (n : Nat) (s : State) : (setTxIdx n s).cmdFault = s.cmdFault := rfl
@[simp] theorem setTxIdx_cfg (n : Nat) (s : State) : (setTxIdx n s).cfg = s.cfg := rfl
@[simp] theorem setTxIdx_inputs (n : Nat) (s : State) : (setTxIdx n s).inputs = s.inputs := rfl
@[simp] theorem setTxIdx_cycle (n : Nat) (s : State) : (setTxIdx n s).cycle = s.cycle := rfl

@[simp] theorem endFrame_tickEn (s : State) : (endFrame s).tickEn = s.tickEn := rfl
@[simp] theorem endFrame_preCnt (s : State) : (endFrame s).preCnt = s.preCnt := rfl
@[simp] theorem endFrame_baseCnt (s : State) : (endFrame s).baseCnt = s.baseCnt := rfl
@[simp] theorem endFrame_slowCnt (s : State) : (endFrame s).slowCnt = s.slowCnt := rfl
@[simp] theorem endFrame_fastSlot (s : State) : (endFrame s).fastSlot = s.fastSlot := rfl
@[simp] theorem endFrame_slowSlot (s : State) : (endFrame s).slowSlot = s.slowSlot := rfl
@[simp] theorem endFrame_lightEn (s : State) : (endFrame s).lightEn = s.lightEn := rfl
@[simp] theorem endFrame_mask (s : State) : (endFrame s).mask = s.mask := rfl
@[simp] theorem endFrame_brightness (s : State) : (endFrame s).brightness = s.brightness := rfl
@[simp] theorem endFrame_pwmCnt (s : State) : (endFrame s).pwmCnt = s.pwmCnt := rfl
@[simp] theorem endFrame_gate (s : State) : (endFrame s).gate = s.gate := rfl
@[simp] theorem endFrame_irEn (s : State) : (endFrame s).irEn = s.irEn := rfl
@[simp] theorem endFrame_carCnt (s : State) : (endFrame s).carCnt = s.carCnt := rfl
@[simp] theorem endFrame_carrier (s : State) : (endFrame s).carrier = s.carrier := rfl
@[simp] theorem endFrame_txBusy (s : State) : (endFrame s).txBusy = false := rfl
@[simp] theorem endFrame_txData (s : State) : (endFrame s).txData = s.txData := rfl
@[simp] theorem endFrame_txIdx (s : State) : (endFrame s).txIdx = 0 := rfl
@[simp] theorem endFrame_txCnt (s : State) : (endFrame s).txCnt = s.txCnt := rfl
@[simp] theorem endFrame_rxIntent (s : State) : (endFrame s).rxIntent = s.rxIntent := rfl
@[simp] theorem endFrame_rxHwEn (s : State) : (endFrame s).rxHwEn = s.rxHwEn := rfl
@[simp] theorem endFrame_rxPrev (s : State) : (endFrame s).rxPrev = s.rxPrev := rfl
@[simp] theorem endFrame_rxBusy (s : State) : (endFrame s).rxBusy = s.rxBusy := rfl
@[simp] theorem endFrame_rxIdx (s : State) : (endFrame s).rxIdx = s.rxIdx := rfl
@[simp] theorem endFrame_rxCnt (s : State) : (endFrame s).rxCnt = s.rxCnt := rfl
@[simp] theorem endFrame_rxShift (s : State) : (endFrame s).rxShift = s.rxShift := rfl
@[simp] theorem endFrame_rxData (s : State) : (endFrame s).rxData = s.rxData := rfl
@[simp] theorem endFrame_rxhReg (s : State) : (endFrame s).rxhReg = s.rxhReg := rfl
@[simp] theorem endFrame_txpReg (s : State) : (endFrame s).txpReg = s.txpReg := rfl
@[simp] theorem endFrame_evFast (s : State) : (endFrame s).evFast = s.evFast := rfl
@[simp] theorem endFrame_evSlow (s : State) : (endFrame s).evSlow = s.evSlow := rfl
@[simp] theorem endFrame_irqFast (s : State) : (endFrame s).irqFast = s.irqFast := rfl
@[simp] theorem endFrame_irqSlow (s : State) : (endFrame s).irqSlow = s.irqSlow := rfl
@[simp] theorem endFrame_irqRx (s : State) : (endFrame s).irqRx = s.irqRx := rfl
@[simp] theorem endFrame_provTake (s : State) : (endFrame s).provTake = s.provTake := rfl
@[simp] theorem endFrame_txDone (s : State) : (endFrame s).txDone = s.txDone := rfl
@[simp] theorem endFrame_cmdFault (s : State) : (endFrame s).cmdFault = s.cmdFault := rfl
@[simp] theorem endFrame_cfg (s : State) : (endFrame s).cfg = s.cfg := rfl
@[simp] theorem endFrame_inputs (s : State) : (endFrame s).inputs = s.inputs := rfl
@[simp] theorem endFrame_cycle (s : State) : (endFrame s).cycle = s.cycle := rfl

@[simp] theorem rxDrain_tickEn (s : State) : (rxDrain s).tickEn = s.tickEn := rfl
@[simp] theorem rxDrain_preCnt (s : State) : (rxDrain s).preCnt = s.preCnt := rfl
@[simp] theorem rxDrain_baseCnt (s : State) : (rxDrain s).baseCnt = s.baseCnt := rfl
@[simp] theorem rxDrain_slowCnt (s : State) : (rxDrain s).slowCnt = s.slowCnt := rfl
@[simp] theorem rxDrain_fastSlot (s : State) : (rxDrain s).fastSlot = s.fastSlot := rfl
@[simp] theorem rxDrain_slowSlot (s : State) : (rxDrain s).slowSlot = s.slowSlot := rfl
@[simp] theorem rxDrain_lightEn (s : State) : (rxDrain s).lightEn = s.lightEn := rfl
@[simp] theorem rxDrain_mask (s : State) : (rxDrain s).mask = s.mask := rfl
@[simp] theorem rxDrain_brightness (s : State) : (rxDrain s).brightness = s.brightness := rfl
@[simp] theorem rxDrain_pwmCnt (s : State) : (rxDrain s).pwmCnt = s.pwmCnt := rfl
@[simp] theorem rxDrain_gate (s : State) : (rxDrain s).gate = s.gate := rfl
@[simp] theorem rxDrain_irEn (s : State) : (rxDrain s).irEn = s.irEn := rfl
@[simp] theorem rxDrain_carCnt (s : State) : (rxDrain s).carCnt = s.carCnt := rfl
@[simp] theorem rxDrain_carrier (s : State) : (rxDrain s).carrier = s.carrier := rfl
@[simp] theorem rxDrain_txBusy (s : State) : (rxDrain s).txBusy = s.txBusy := rfl
@[simp] theorem rxDrain_txData (s : State) : (rxDrain s).txData = s.txData := rfl
@[simp] theorem rxDrain_txIdx (s : State) : (rxDrain s).txIdx = s.txIdx := rfl
@[simp] theorem rxDrain_txCnt (s : State) : (rxDrain s).txCnt = s.txCnt := rfl
@[simp] theorem rxDrain_rxIntent (s : State) : (rxDrain s).rxIntent = s.rxIntent := rfl
@[simp] theorem rxDrain_rxHwEn (s : State) : (rxDrain s).rxHwEn = s.rxHwEn := rfl
@[simp] theorem rxDrain_rxPrev (s : State) : (rxDrain s).rxPrev = s.rxPrev := rfl
@[simp] theorem rxDrain_rxBusy (s : State) : (rxDrain s).rxBusy = false := rfl
@[simp] theorem rxDrain_rxIdx (s : State) : (rxDrain s).rxIdx = 0 := rfl
@[simp] theorem rxDrain_rxCnt (s : State) : (rxDrain s).rxCnt = 0 := rfl
@[simp] theorem rxDrain_rxShift (s : State) : (rxDrain s).rxShift = s.rxShift := rfl
@[simp] theorem rxDrain_rxData (s : State) : (rxDrain s).rxData = s.rxShift := rfl
@[simp] theorem rxDrain_rxhReg (s : State) : (rxDrain s).rxhReg = s.rxhReg := rfl
@[simp] theorem rxDrain_txpReg (s : State) : (rxDrain s).txpReg = s.txpReg := rfl
@[simp] theorem rxDrain_evFast (s : State) : (rxDrain s).evFast = s.evFast := rfl
@[simp] theorem rxDrain_evSlow (s : State) : (rxDrain s).evSlow = s.evSlow := rfl
@[simp] theorem rxDrain_irqFast (s : State) : (rxDrain s).irqFast = s.irqFast := rfl
@[simp] theorem rxDrain_irqSlow (s : State) : (rxDrain s).irqSlow = s.irqSlow := rfl
@[simp] theorem rxDrain_irqRx (s : State) : (rxDrain s).irqRx = s.irqRx := rfl
@[simp] theorem rxDrain_provTake (s : State) : (rxDrain s).provTake = s.provTake := rfl
@[simp] theorem rxDrain_txDone (s : State) : (rxDrain s).txDone = s.txDone := rfl
@[simp] theorem rxDrain_cmdFault (s : State) : (rxDrain s).cmdFault = s.cmdFault := rfl
@[simp] theorem rxDrain_cfg (s : State) : (rxDrain s).cfg = s.cfg := rfl
@[simp] theorem rxDrain_inputs (s : State) : (rxDrain s).inputs = s.inputs := rfl
@[simp] theorem rxDrain_cycle (s : State) : (rxDrain s).cycle = s.cycle := rfl

@[simp] theorem setRxPos_tickEn (i n : Nat) (s : State) : (setRxPos i n s).tickEn = s.tickEn := rfl
@[simp] theorem setRxPos_preCnt (i n : Nat) (s : State) : (setRxPos i n s).preCnt = s.preCnt := rfl
@[simp] theorem setRxPos_baseCnt (i n : Nat) (s : State) : (setRxPos i n s).baseCnt = s.baseCnt := rfl
@[simp] theorem setRxPos_slowCnt (i n : Nat) (s : State) : (setRxPos i n s).slowCnt = s.slowCnt := rfl
@[simp] theorem setRxPos_fastSlot (i n : Nat) (s : State) : (setRxPos i n s).fastSlot = s.fastSlot := rfl
@[simp] theorem setRxPos_slowSlot (i n : Nat) (s : State) : (setRxPos i n s).slowSlot = s.slowSlot := rfl
@[simp] theorem setRxPos_lightEn (i n : Nat) (s : State) : (setRxPos i n s).lightEn = s.lightEn := rfl
@[simp] theorem setRxPos_mask (i n : Nat) (s : State) : (setRxPos i n s).mask = s.mask := rfl
@[simp] theorem setRxPos_brightness (i n : Nat) (s : State) : (setRxPos i n s).brightness = s.brightness := rfl
@[simp] theorem setRxPos_pwmCnt (i n : Nat) (s : State) : (setRxPos i n s).pwmCnt = s.pwmCnt := rfl
@[simp] theorem setRxPos_gate (i n : Nat) (s : State) : (setRxPos i n s).gate = s.gate := rfl
@[simp] theorem setRxPos_irEn (i n : Nat) (s : State) : (setRxPos i n s).irEn = s.irEn := rfl
@[simp] theorem setRxPos_carCnt (i n : Nat) (s : State) : (setRxPos i n s).carCnt = s.carCnt := rfl
@[simp] theorem setRxPos_carrier (i n : Nat) (s : State) : (setRxPos i n s).carrier = s.carrier := rfl
@[simp] theorem setRxPos_txBusy (i n : Nat) (s : State) : (setRxPos i n s).txBusy = s.txBusy := rfl
@[simp] theorem setRxPos_txData (i n : Nat) (s : State) : (setRxPos i n s).txData = s.txData := rfl
@[simp] theorem setRxPos_txIdx (i n : Nat) (s : State) : (setRxPos i n s).txIdx = s.txIdx := rfl
@[simp] theorem setRxPos_txCnt (i n : Nat) (s : State) : (setRxPos i n s).txCnt = s.txCnt := rfl
@[simp] theorem setRxPos_rxIntent (i n : Nat) (s : State) : (setRxPos i n s).rxIntent = s.rxIntent := rfl
@[simp] theorem setRxPos_rxHwEn (i n : Nat) (s : State) : (setRxPos i n s).rxHwEn = s.rxHwEn := rfl
@[simp] theorem setRxPos_rxPrev (i n : Nat) (s : State) : (setRxPos i n s).rxPrev = s.rxPrev := rfl
@[simp] theorem setRxPos_rxBusy (i n : Nat) (s : State) : (setRxPos i n s).rxBusy = s.rxBusy := rfl
@[simp] theorem setRxPos_rxIdx (i n : Nat) (s : State) : (setRxPos i n s).rxIdx = i := rfl
@[simp] theorem setRxPos_rxCnt (i n : Nat) (s : State) : (setRxPos i n s).rxCnt = n := rfl
@[simp] theorem setRxPos_rxShift (i n : Nat) (s : State) : (setRxPos i n s).rxShift = s.rxShift := rfl
@[simp] theorem setRxPos_rxData (i n : Nat) (s : State) : (setRxPos i n s).rxData = s.rxData := rfl
@[simp] theorem setRxPos_rxhReg (i n : Nat) (s : State) : (setRxPos i n s).rxhReg = s.rxhReg := rfl
@[simp] theorem setRxPos_txpReg (i n : Nat) (s : State) : (setRxPos i n s).txpReg = s.txpReg := rfl
@[simp] theorem setRxPos_evFast (i n : Nat) (s : State) : (setRxPos i n s).evFast = s.evFast := rfl
@[simp] theorem setRxPos_evSlow (i n : Nat) (s : State) : (setRxPos i n s).evSlow = s.evSlow := rfl
@[simp] theorem setRxPos_irqFast (i n : Nat) (s : State) : (setRxPos i n s).irqFast = s.irqFast := rfl
@[simp] theorem setRxPos_irqSlow (i n : Nat) (s : State) : (setRxPos i n s).irqSlow = s.irqSlow := rfl
@[simp] theorem setRxPos_irqRx (i n : Nat) (s : State) : (setRxPos i n s).irqRx = s.irqRx := rfl
@[simp] theorem setRxPos_provTake (i n : Nat) (s : State) : (setRxPos i n s).provTake = s.provTake := rfl
@[simp] theorem setRxPos_txDone (i n : Nat) (s : State) : (setRxPos i n s).txDone = s.txDone := rfl
@[simp] theorem setRxPos_cmdFault (i n : Nat) (s : State) : (setRxPos i n s).cmdFault = s.cmdFault := rfl
@[simp] theorem setRxPos_cfg (i n : Nat) (s : State) : (setRxPos i n s).cfg = s.cfg := rfl
@[simp] theorem setRxPos_inputs (i n : Nat) (s : State) : (setRxPos i n s).inputs = s.inputs := rfl
@[simp] theorem setRxPos_cycle (i n : Nat) (s : State) : (setRxPos i n s).cycle = s.cycle := rfl

@[simp] theorem storeRxBit_tickEn (i : Nat) (line : Bool) (s : State) : (storeRxBit i line s).tickEn = s.tickEn := rfl
@[simp] theorem storeRxBit_preCnt (i : Nat) (line : Bool) (s : State) : (storeRxBit i line s).preCnt = s.preCnt := rfl
@[simp] theorem storeRxBit_baseCnt (i : Nat) (line : Bool) (s : State) : (storeRxBit i line s).baseCnt = s.baseCnt := rfl
@[simp] theorem storeRxBit_slowCnt (i : Nat) (line : Bool) (s : State) : (storeRxBit i line s).slowCnt = s.slowCnt := rfl
@[simp] theorem storeRxBit_fastSlot (i : Nat) (line : Bool) (s : State) : (storeRxBit i line s).fastSlot = s.fastSlot := rfl
@[simp] theorem storeRxBit_slowSlot (i : Nat) (line : Bool) (s : State) : (storeRxBit i line s).slowSlot = s.slowSlot := rfl
@[simp] theorem storeRxBit_lightEn (i : Nat) (line : Bool) (s : State) : (storeRxBit i line s).lightEn = s.lightEn := rfl
@[simp] theorem storeRxBit_mask (i : Nat) (line : Bool) (s : State) : (storeRxBit i line s).mask = s.mask := rfl
@[simp] theorem storeRxBit_brightness (i : Nat) (line : Bool) (s : State) : (storeRxBit i line s).brightness = s.brightness := rfl
@[simp] theorem storeRxBit_pwmCnt (i : Nat) (line : Bool) (s : State) : (storeRxBit i line s).pwmCnt = s.pwmCnt := rfl
@[simp] theorem storeRxBit_gate (i : Nat) (line : Bool) (s : State) : (storeRxBit i line s).gate = s.gate := rfl
@[simp] theorem storeRxBit_irEn (i : Nat) (line : Bool) (s : State) : (storeRxBit i line s).irEn = s.irEn := rfl
@[simp] theorem storeRxBit_carCnt (i : Nat) (line : Bool) (s : State) : (storeRxBit i line s).carCnt = s.carCnt := rfl
@[simp] theorem storeRxBit_carrier (i : Nat) (line : Bool) (s : State) : (storeRxBit i line s).carrier = s.carrier := rfl
@[simp] theorem storeRxBit_txBusy (i : Nat) (line : Bool) (s : State) : (storeRxBit i line s).txBusy = s.txBusy := rfl
@[simp] theorem storeRxBit_txData (i : Nat) (line : Bool) (s : State) : (storeRxBit i line s).txData = s.txData := rfl
@[simp] theorem storeRxBit_txIdx (i : Nat) (line : Bool) (s : State) : (storeRxBit i line s).txIdx = s.txIdx := rfl
@[simp] theorem storeRxBit_txCnt (i : Nat) (line : Bool) (s : State) : (storeRxBit i line s).txCnt = s.txCnt := rfl
@[simp] theorem storeRxBit_rxIntent (i : Nat) (line : Bool) (s : State) : (storeRxBit i line s).rxIntent = s.rxIntent := rfl
@[simp] theorem storeRxBit_rxHwEn (i : Nat) (line : Bool) (s : State) : (storeRxBit i line s).rxHwEn = s.rxHwEn := rfl
@[simp] theorem storeRxBit_rxPrev (i : Nat) (line : Bool) (s : State) : (storeRxBit i line s).rxPrev = s.rxPrev := rfl
@[simp] theorem storeRxBit_rxBusy (i : Nat) (line : Bool) (s : State) : (storeRxBit i line s).rxBusy = s.rxBusy := rfl
@[simp] theorem storeRxBit_rxIdx (i : Nat) (line : Bool) (s : State) : (storeRxBit i line s).rxIdx = s.rxIdx := rfl
@[simp] theorem storeRxBit_rxCnt (i : Nat) (line : Bool) (s : State) : (storeRxBit i line s).rxCnt = s.rxCnt := rfl
@[simp] theorem storeRxBit_rxShift (i : Nat) (line : Bool) (s : State) : (storeRxBit i line s).rxShift = writeBit s.rxShift i line := rfl
@[simp] theorem storeRxBit_rxData (i : Nat) (line : Bool) (s : State) : (storeRxBit i line s).rxData = s.rxData := rfl
@[simp] theorem storeRxBit_rxhReg (i : Nat) (line : Bool) (s : State) : (storeRxBit i line s).rxhReg = s.rxhReg := rfl
@[simp] theorem storeRxBit_txpReg (i : Nat) (line : Bool) (s : State) : (storeRxBit i line s).txpReg = s.txpReg := rfl
@[simp] theorem storeRxBit_evFast (i : Nat) (line : Bool) (s : State) : (storeRxBit i line s).evFast = s.evFast := rfl
@[simp] theorem storeRxBit_evSlow (i : Nat) (line : Bool) (s : State) : (storeRxBit i line s).evSlow = s.evSlow := rfl
@[simp] theorem storeRxBit_irqFast (i : Nat) (line : Bool) (s : State) : (storeRxBit i line s).irqFast = s.irqFast := rfl
@[simp] theorem storeRxBit_irqSlow (i : Nat) (line : Bool) (s : State) : (storeRxBit i line s).irqSlow = s.irqSlow := rfl
@[simp] theorem storeRxBit_irqRx (i : Nat) (line : Bool) (s : State) : (storeRxBit i line s).irqRx = s.irqRx := rfl
@[simp] theorem storeRxBit_provTake (i : Nat) (line : Bool) (s : State) : (storeRxBit i line s).provTake = s.provTake := rfl
@[simp] theorem storeRxBit_txDone (i : Nat) (line : Bool) (s : State) : (storeRxBit i line s).txDone = s.txDone := rfl
@[simp] theorem storeRxBit_cmdFault (i : Nat) (line : Bool) (s : State) : (storeRxBit i line s).cmdFault = s.cmdFault := rfl
@[simp] theorem storeRxBit_cfg (i : Nat) (line : Bool) (s : State) : (storeRxBit i line s).cfg = s.cfg := rfl
@[simp] theorem storeRxBit_inputs (i : Nat) (line : Bool) (s : State) : (storeRxBit i line s).inputs = s.inputs := rfl
@[simp] theorem storeRxBit_cycle (i : Nat) (line : Bool) (s : State) : (storeRxBit i line s).cycle = s.cycle := rfl

@[simp] theorem setRxBusy_tickEn (s : State) : (setRxBusy s).tickEn = s.tickEn := rfl
@[simp] theorem setRxBusy_preCnt (s : State) : (setRxBusy s).preCnt = s.preCnt := rfl
@[simp] theorem setRxBusy_baseCnt (s : State) : (setRxBusy s).baseCnt = s.baseCnt := rfl
@[simp] theorem setRxBusy_slowCnt (s : State) : (setRxBusy s).slowCnt = s.slowCnt := rfl
@[simp] theorem setRxBusy_fastSlot (s : State) : (setRxBusy s).fastSlot = s.fastSlot := rfl
@[simp] theorem setRxBusy_slowSlot (s : State) : (setRxBusy s).slowSlot = s.slowSlot := rfl
@[simp] theorem setRxBusy_lightEn (s : State) : (setRxBusy s).lightEn = s.lightEn := rfl
@[simp] theorem setRxBusy_mask (s : State) : (setRxBusy s).mask = s.mask := rfl
@[simp] theorem setRxBusy_brightness (s : State) : (setRxBusy s).brightness = s.brightness := rfl
@[simp] theorem setRxBusy_pwmCnt (s : State) : (setRxBusy s).pwmCnt = s.pwmCnt := rfl
@[simp] theorem setRxBusy_gate (s : State) : (setRxBusy s).gate = s.gate := rfl
@[simp] theorem setRxBusy_irEn (s : State) : (setRxBusy s).irEn = s.irEn := rfl
@[simp] theorem setRxBusy_carCnt (s : State) : (setRxBusy s).carCnt = s.carCnt := rfl
@[simp] theorem setRxBusy_carrier (s : State) : (setRxBusy s).carrier = s.carrier := rfl
@[simp] theorem setRxBusy_txBusy (s : State) : (setRxBusy s).txBusy = s.txBusy := rfl
@[simp] theorem setRxBusy_txData (s : State) : (setRxBusy s).txData = s.txData := rfl
@[simp] theorem setRxBusy_txIdx (s : State) : (setRxBusy s).txIdx = s.txIdx := rfl
@[simp] theorem setRxBusy_txCnt (s : State) : (setRxBusy s).txCnt = s.txCnt := rfl
@[simp] theorem setRxBusy_rxIntent (s : State) : (setRxBusy s).rxIntent = s.rxIntent := rfl
@[simp] theorem setRxBusy_rxHwEn (s : State) : (setRxBusy s).rxHwEn = s.rxHwEn := rfl
@[simp] theorem setRxBusy_rxPrev (s : State) : (setRxBusy s).rxPrev = s.rxPrev := rfl
@[simp] theorem setRxBusy_rxBusy (s : State) : (setRxBusy s).rxBusy = true := rfl
@[simp] theorem setRxBusy_rxIdx (s : State) : (setRxBusy s).rxIdx = s.rxIdx := rfl
@[simp] theorem setRxBusy_rxCnt (s : State) : (setRxBusy s).rxCnt = s.rxCnt := rfl
@[simp] theorem setRxBusy_rxShift (s : State) : (setRxBusy s).rxShift = s.rxShift := rfl
@[simp] theorem setRxBusy_rxData (s : State) : (setRxBusy s).rxData = s.rxData := rfl
@[simp] theorem setRxBusy_rxhReg (s : State) : (setRxBusy s).rxhReg = s.rxhReg := rfl
@[simp] theorem setRxBusy_txpReg (s : State) : (setRxBusy s).txpReg = s.txpReg := rfl
@[simp] theorem setRxBusy_evFast (s : State) : (setRxBusy s).evFast = s.evFast := rfl
@[simp] theorem setRxBusy_evSlow (s : State) : (setRxBusy s).evSlow = s.evSlow := rfl
@[simp] theorem setRxBusy_irqFast (s : State) : (setRxBusy s).irqFast = s.irqFast := rfl
@[simp] theorem setRxBusy_irqSlow (s : State) : (setRxBusy s).irqSlow = s.irqSlow := rfl
@[simp] theorem setRxBusy_irqRx (s : State) : (setRxBusy s).irqRx = s.irqRx := rfl
@[simp] theorem setRxBusy_provTake (s : State) : (setRxBusy s).provTake = s.provTake := rfl
@[simp] theorem setRxBusy_txDone (s : State) : (setRxBusy s).txDone = s.txDone := rfl
@[simp] theorem setRxBusy_cmdFault (s : State) : (setRxBusy s).cmdFault = s.cmdFault := rfl
@[simp] theorem setRxBusy_cfg (s : State) : (setRxBusy s).cfg = s.cfg := rfl
@[simp] theorem setRxBusy_inputs (s : State) : (setRxBusy s).inputs = s.inputs := rfl
@[simp] theorem setRxBusy_cycle (s : State) : (setRxBusy s).cycle = s.cycle := rfl

@[simp] theorem setRxPrev_tickEn (line : Bool) (s : State) : (setRxPrev line s).tickEn = s.tickEn := rfl
@[simp] theorem setRxPrev_preCnt (line : Bool) (s : State) : (setRxPrev line s).preCnt = s.preCnt := rfl
@[simp] theorem setRxPrev_baseCnt (line : Bool) (s : State) : (setRxPrev line s).baseCnt = s.baseCnt := rfl
@[simp] theorem setRxPrev_slowCnt (line : Bool) (s : State) : (setRxPrev line s).slowCnt = s.slowCnt := rfl
@[simp] theorem setRxPrev_fastSlot (line : Bool) (s : State) : (setRxPrev line s).fastSlot = s.fastSlot := rfl
@[simp] theorem setRxPrev_slowSlot (line : Bool) (s : State) : (setRxPrev line s).slowSlot = s.slowSlot := rfl
@[simp] theorem setRxPrev_lightEn (line : Bool) (s : State) : (setRxPrev line s).lightEn = s.lightEn := rfl
@[simp] theorem setRxPrev_mask (line : Bool) (s : State) : (setRxPrev line s).mask = s.mask := rfl
@[simp] theorem setRxPrev_brightness (line : Bool) (s : State) : (setRxPrev line s).brightness = s.brightness := rfl
@[simp] theorem setRxPrev_pwmCnt (line : Bool) (s : State) : (setRxPrev line s).pwmCnt = s.pwmCnt := rfl
@[simp] theorem setRxPrev_gate (line : Bool) (s : State) : (setRxPrev line s).gate = s.gate := rfl
@[simp] theorem setRxPrev_irEn (line : Bool) (s : State) : (setRxPrev line s).irEn = s.irEn := rfl
@[simp] theorem setRxPrev_carCnt (line : Bool) (s : State) : (setRxPrev line s).carCnt = s.carCnt := rfl
@[simp] theorem setRxPrev_carrier (line : Bool) (s : State) : (setRxPrev line s).carrier = s.carrier := rfl
@[simp] theorem setRxPrev_txBusy (line : Bool) (s : State) : (setRxPrev line s).txBusy = s.txBusy := rfl
@[simp] theorem setRxPrev_txData (line : Bool) (s : State) : (setRxPrev line s).txData = s.txData := rfl
@[simp] theorem setRxPrev_txIdx (line : Bool) (s : State) : (setRxPrev line s).txIdx = s.txIdx := rfl
@[simp] theorem setRxPrev_txCnt (line : Bool) (s : State) : (setRxPrev line s).txCnt = s.txCnt := rfl
@[simp] theorem setRxPrev_rxIntent (line : Bool) (s : State) : (setRxPrev line s).rxIntent = s.rxIntent := rfl
@[simp] theorem setRxPrev_rxHwEn (line : Bool) (s : State) : (setRxPrev line s).rxHwEn = s.rxHwEn := rfl
@[simp] theorem setRxPrev_rxPrev (line : Bool) (s : State) : (setRxPrev line s).rxPrev = line := rfl
@[simp] theorem setRxPrev_rxBusy (line : Bool) (s : State) : (setRxPrev line s).rxBusy = s.rxBusy := rfl
@[simp] theorem setRxPrev_rxIdx (line : Bool) (s : State) : (setRxPrev line s).rxIdx = s.rxIdx := rfl
@[simp] theorem setRxPrev_rxCnt (line : Bool) (s : State) : (setRxPrev line s).rxCnt = s.rxCnt := rfl
@[simp] theorem setRxPrev_rxShift (line : Bool) (s : State) : (setRxPrev line s).rxShift = s.rxShift := rfl
@[simp] theorem setRxPrev_rxData (line : Bool) (s : State) : (setRxPrev line s).rxData = s.rxData := rfl
@[simp] theorem setRxPrev_rxhReg (line : Bool) (s : State) : (setRxPrev line s).rxhReg = s.rxhReg := rfl
@[simp] theorem setRxPrev_txpReg (line : Bool) (s : State) : (setRxPrev line s).txpReg = s.txpReg := rfl
@[simp] theorem setRxPrev_evFast (line : Bool) (s : State) : (setRxPrev line s).evFast = s.evFast := rfl
@[simp] theorem setRxPrev_evSlow (line : Bool) (s : State) : (setRxPrev line s).evSlow = s.evSlow := rfl
@[simp] theorem setRxPrev_irqFast (line : Bool) (s : State) : (setRxPrev line s).irqFast = s.irqFast := rfl
@[simp] theorem setRxPrev_irqSlow (line : Bool) (s : State) : (setRxPrev line s).irqSlow = s.irqSlow := rfl
@[simp] theorem setRxPrev_irqRx (line : Bool) (s : State) : (setRxPrev line s).irqRx = s.irqRx := rfl
@[simp] theorem setRxPrev_provTake (line : Bool) (s : State) : (setRxPrev line s).provTake = s.provTake := rfl
@[simp] theorem setRxPrev_txDone (line : Bool) (s : State) : (setRxPrev line s).txDone = s.txDone := rfl
@[simp] theorem setRxPrev_cmdFault (line : Bool) (s : State) : (setRxPrev line s).cmdFault = s.cmdFault := rfl
@[simp] theorem setRxPrev_cfg (line : Bool) (s : State) : (setRxPrev line s).cfg = s.cfg := rfl
@[simp] theorem setRxPrev_inputs (line : Bool) (s : State) : (setRxPrev line s).inputs = s.inputs := rfl
@[simp] theorem setRxPrev_cycle (line : Bool) (s : State) : (setRxPrev line s).cycle = s.cycle := rfl

@[simp] theorem setCarCnt_tickEn (n : Nat) (s : State) : (setCarCnt n s).tickEn = s.tickEn := rfl
@[simp] theorem setCarCnt_preCnt (n : Nat) (s : State) : (setCarCnt n s).preCnt = s.preCnt := rfl
@[simp] theorem setCarCnt_baseCnt (n : Nat) (s : State) : (setCarCnt n s).baseCnt = s.baseCnt := rfl
@[simp] theorem setCarCnt_slowCnt (n : Nat) (s : State) : (setCarCnt n s).slowCnt = s.slowCnt := rfl
@[simp] theorem setCarCnt_fastSlot (n : Nat) (s : State) : (setCarCnt n s).fastSlot = s.fastSlot := rfl
@[simp] theorem setCarCnt_slowSlot (n : Nat) (s : State) : (setCarCnt n s).slowSlot = s.slowSlot := rfl
@[simp] theorem setCarCnt_lightEn (n : Nat) (s : State) : (setCarCnt n s).lightEn = s.lightEn := rfl
@[simp] theorem setCarCnt_mask (n : Nat) (s : State) : (setCarCnt n s).mask = s.mask := rfl
@[simp] theorem setCarCnt_brightness (n : Nat) (s : State) : (setCarCnt n s).brightness = s.brightness := rfl
@[simp] theorem setCarCnt_pwmCnt (n : Nat) (s : State) : (setCarCnt n s).pwmCnt = s.pwmCnt := rfl
@[simp] theorem setCarCnt_gate (n : Nat) (s : State) : (setCarCnt n s).gate = s.gate := rfl
@[simp] theorem setCarCnt_irEn (n : Nat) (s : State) : (setCarCnt n s).irEn = s.irEn := rfl
@[simp] theorem setCarCnt_carCnt (n : Nat) (s : State) : (setCarCnt n s).carCnt = n := rfl
@[simp] theorem setCarCnt_carrier (n : Nat) (s : State) : (setCarCnt n s).carrier = s.carrier := rfl
@[simp] theorem setCarCnt_txBusy (n : Nat) (s : State) : (setCarCnt n s).txBusy = s.txBusy := rfl
@[simp] theorem setCarCnt_txData (n : Nat) (s : State) : (setCarCnt n s).txData = s.txData := rfl
@[simp] theorem setCarCnt_txIdx (n : Nat) (s : State) : (setCarCnt n s).txIdx = s.txIdx := rfl
@[simp] theorem setCarCnt_txCnt (n : Nat) (s : State) : (setCarCnt n s).txCnt = s.txCnt := rfl
@[simp] theorem setCarCnt_rxIntent (n : Nat) (s : State) : (setCarCnt n s).rxIntent = s.rxIntent := rfl
@[simp] theorem setCarCnt_rxHwEn (n : Nat) (s : State) : (setCarCnt n s).rxHwEn = s.rxHwEn := rfl
@[simp] theorem setCarCnt_rxPrev (n : Nat) (s : State) : (setCarCnt n s).rxPrev = s.rxPrev := rfl
@[simp] theorem setCarCnt_rxBusy (n : Nat) (s : State) : (setCarCnt n s).rxBusy = s.rxBusy := rfl
@[simp] theorem setCarCnt_rxIdx (n : Nat) (s : State) : (setCarCnt n s).rxIdx = s.rxIdx := rfl
@[simp] theorem setCarCnt_rxCnt (n : Nat) (s : State) : (setCarCnt n s).rxCnt = s.rxCnt := rfl
@[simp] theorem setCarCnt_rxShift (n : Nat) (s : State) : (setCarCnt n s).rxShift = s.rxShift := rfl
@[simp] theorem setCarCnt_rxData (n : Nat) (s : State) : (setCarCnt n s).rxData = s.rxData := rfl
@[simp] theorem setCarCnt_rxhReg (n : Nat) (s : State) : (setCarCnt n s).rxhReg = s.rxhReg := rfl
@[simp] theorem setCarCnt_txpReg (n : Nat) (s : State) : (setCarCnt n s).txpReg = s.txpReg := rfl
@[simp] theorem setCarCnt_evFast (n : Nat) (s : State) : (setCarCnt n s).evFast = s.evFast := rfl
@[simp] theorem setCarCnt_evSlow (n : Nat) (s : State) : (setCarCnt n s).evSlow = s.evSlow := rfl
@[simp] theorem setCarCnt_irqFast (n : Nat) (s : State) : (setCarCnt n s).irqFast = s.irqFast := rfl
@[simp] theorem setCarCnt_irqSlow (n : Nat) (s : State) : (setCarCnt n s).irqSlow = s.irqSlow := rfl
@[simp] theorem setCarCnt_irqRx (n : Nat) (s : State) : (setCarCnt n s).irqRx = s.irqRx := rfl
@[simp] theorem setCarCnt_provTake (n : Nat) (s : State) : (setCarCnt n s).provTake = s.provTake := rfl
@[simp] theorem setCarCnt_txDone (n : Nat) (s : State) : (setCarCnt n s).txDone = s.txDone := rfl
@[simp] theorem setCarCnt_cmdFault (n : Nat) (s : State) : (setCarCnt n s).cmdFault = s.cmdFault := rfl
@[simp] theorem setCarCnt_cfg (n : Nat) (s : State) : (setCarCnt n s).cfg = s.cfg := rfl
@[simp] theorem setCarCnt_inputs (n : Nat) (s : State) : (setCarCnt n s).inputs = s.inputs := rfl
@[simp] theorem setCarCnt_cycle (n : Nat) (s : State) : (setCarCnt n s).cycle = s.cycle := rfl

@[simp] theorem toggleCarrier_tickEn (s : State) : (toggleCarrier s).tickEn = s.tickEn := rfl
@[simp] theorem toggleCarrier_preCnt (s : State) : (toggleCarrier s).preCnt = s.preCnt := rfl
@[simp] theorem toggleCarrier_baseCnt (s : State) : (toggleCarrier s).baseCnt = s.baseCnt := rfl
@[simp] theorem toggleCarrier_slowCnt (s : State) : (toggleCarrier s).slowCnt = s.slowCnt := rfl
@[simp] theorem toggleCarrier_fastSlot (s : State) : (toggleCarrier s).fastSlot = s.fastSlot := rfl
@[simp] theorem toggleCarrier_slowSlot (s : State) : (toggleCarrier s).slowSlot = s.slowSlot := rfl
@[simp] theorem toggleCarrier_lightEn (s : State) : (toggleCarrier s).lightEn = s.lightEn := rfl
@[simp] theorem toggleCarrier_mask (s : State) : (toggleCarrier s).mask = s.mask := rfl
@[simp] theorem toggleCarrier_brightness (s : State) : (toggleCarrier s).brightness = s.brightness := rfl
@[simp] theorem toggleCarrier_pwmCnt (s : State) : (toggleCarrier s).pwmCnt = s.pwmCnt := rfl
@[simp] theorem toggleCarrier_gate (s : State) : (toggleCarrier s).gate = s.gate := rfl
@[simp] theorem toggleCarrier_irEn (s : State) : (toggleCarrier s).irEn = s.irEn := rfl
@[simp] theorem toggleCarrier_carCnt (s : State) : (toggleCarrier s).carCnt = s.carCnt := rfl
@[simp] theorem toggleCarrier_carrier (s : State) : (toggleCarrier s).carrier = !s.carrier := rfl
@[simp] theorem toggleCarrier_txBusy (s : State) : (toggleCarrier s).txBusy = s.txBusy := rfl
@[simp] theorem toggleCarrier_txData (s : State) : (toggleCarrier s).txData = s.txData := rfl
@[simp] theorem toggleCarrier_txIdx (s : State) : (toggleCarrier s).txIdx = s.txIdx := rfl
@[simp] theorem toggleCarrier_txCnt (s : State) : (toggleCarrier s).txCnt = s.txCnt := rfl
@[simp] theorem toggleCarrier_rxIntent (s : State) : (toggleCarrier s).rxIntent = s.rxIntent := rfl
@[simp] theorem toggleCarrier_rxHwEn (s : State) : (toggleCarrier s).rxHwEn = s.rxHwEn := rfl
@[simp] theorem toggleCarrier_rxPrev (s : State) : (toggleCarrier s).rxPrev = s.rxPrev := rfl
@[simp] theorem toggleCarrier_rxBusy (s : State) : (toggleCarrier s).rxBusy = s.rxBusy := rfl
@[simp] theorem toggleCarrier_rxIdx (s : State) : (toggleCarrier s).rxIdx = s.rxIdx := rfl
@[simp] theorem toggleCarrier_rxCnt (s : State) : (toggleCarrier s).rxCnt = s.rxCnt := rfl
@[simp] theorem toggleCarrier_rxShift (s : State) : (toggleCarrier s).rxShift = s.rxShift := rfl
@[simp] theorem toggleCarrier_rxData (s : State) : (toggleCarrier s).rxData = s.rxData := rfl
@[simp] theorem toggleCarrier_rxhReg (s : State) : (toggleCarrier s).rxhReg = s.rxhReg := rfl
@[simp] theorem toggleCarrier_txpReg (s : State) : (toggleCarrier s).txpReg = s.txpReg := rfl
@[simp] theorem toggleCarrier_evFast (s : State) : (toggleCarrier s).evFast = s.evFast := rfl
@[simp] theorem toggleCarrier_evSlow (s : State) : (toggleCarrier s).evSlow = s.evSlow := rfl
@[simp] theorem toggleCarrier_irqFast (s : State) : (toggleCarrier s).irqFast = s.irqFast := rfl
@[simp] theorem toggleCarrier_irqSlow (s : State) : (toggleCarrier s).irqSlow = s.irqSlow := rfl
@[simp] theorem toggleCarrier_irqRx (s : State) : (toggleCarrier s).irqRx = s.irqRx := rfl
@[simp] theorem toggleCarrier_provTake (s : State) : (toggleCarrier s).provTake = s.provTake := rfl
@[simp] theorem toggleCarrier_txDone (s : State) : (toggleCarrier s).txDone = s.txDone := rfl
@[simp] theorem toggleCarrier_cmdFault (s : State) : (toggleCarrier s).cmdFault = s.cmdFault := rfl
@[simp] theorem toggleCarrier_cfg (s : State) : (toggleCarrier s).cfg = s.cfg := rfl
@[simp] theorem toggleCarrier_inputs (s : State) : (toggleCarrier s).inputs = s.inputs := rfl
@[simp] theorem toggleCarrier_cycle (s : State) : (toggleCarrier s).cycle = s.cycle := rfl

@[simp] theorem setPreCnt_tickEn (n : Nat) (s : State) : (setPreCnt n s).tickEn = s.tickEn := rfl
@[simp] theorem setPreCnt_preCnt (n : Nat) (s : State) : (setPreCnt n s).preCnt = n := rfl
@[simp] theorem setPreCnt_baseCnt (n : Nat) (s : State) : (setPreCnt n s).baseCnt = s.baseCnt := rfl
@[simp] theorem setPreCnt_slowCnt (n : Nat) (s : State) : (setPreCnt n s).slowCnt = s.slowCnt := rfl
@[simp] theorem setPreCnt_fastSlot (n : Nat) (s : State) : (setPreCnt n s).fastSlot = s.fastSlot := rfl
@[simp] theorem setPreCnt_slowSlot (n : Nat) (s : State) : (setPreCnt n s).slowSlot = s.slowSlot := rfl
@[simp] theorem setPreCnt_lightEn (n : Nat) (s : State) : (setPreCnt n s).lightEn = s.lightEn := rfl
@[simp] theorem setPreCnt_mask (n : Nat) (s : State) : (setPreCnt n s).mask = s.mask := rfl
@[simp] theorem setPreCnt_brightness (n : Nat) (s : State) : (setPreCnt n s).brightness = s.brightness := rfl
@[simp] theorem setPreCnt_pwmCnt (n : Nat) (s : State) : (setPreCnt n s).pwmCnt = s.pwmCnt := rfl
@[simp] theorem setPreCnt_gate (n : Nat) (s : State) : (setPreCnt n s).gate = s.gate := rfl
@[simp] theorem setPreCnt_irEn (n : Nat) (s : State) : (setPreCnt n s).irEn = s.irEn := rfl
@[simp] theorem setPreCnt_carCnt (n : Nat) (s : State) : (setPreCnt n s).carCnt = s.carCnt := rfl
@[simp] theorem setPreCnt_carrier (n : Nat) (s : State) : (setPreCnt n s).carrier = s.carrier := rfl
@[simp] theorem setPreCnt_txBusy (n : Nat) (s : State) : (setPreCnt n s).txBusy = s.txBusy := rfl
@[simp] theorem setPreCnt_txData (n : Nat) (s : State) : (setPreCnt n s).txData = s.txData := rfl
@[simp] theorem setPreCnt_txIdx (n : Nat) (s : State) : (setPreCnt n s).txIdx = s.txIdx := rfl
@[simp] theorem setPreCnt_txCnt (n : Nat) (s : State) : (setPreCnt n s).txCnt = s.txCnt := rfl
@[simp] theorem setPreCnt_rxIntent (n : Nat) (s : State) : (setPreCnt n s).rxIntent = s.rxIntent := rfl
@[simp] theorem setPreCnt_rxHwEn (n : Nat) (s : State) : (setPreCnt n s).rxHwEn = s.rxHwEn := rfl
@[simp] theorem setPreCnt_rxPrev (n : Nat) (s : State) : (setPreCnt n s).rxPrev = s.rxPrev := rfl
@[simp] theorem setPreCnt_rxBusy (n : Nat) (s : State) : (setPreCnt n s).rxBusy = s.rxBusy := rfl
@[simp] theorem setPreCnt_rxIdx (n : Nat) (s : State) : (setPreCnt n s).rxIdx = s.rxIdx := rfl
@[simp] theorem setPreCnt_rxCnt (n : Nat) (s : State) : (setPreCnt n s).rxCnt = s.rxCnt := rfl
@[simp] theorem setPreCnt_rxShift (n : Nat) (s : State) : (setPreCnt n s).rxShift = s.rxShift := rfl
@[simp] theorem setPreCnt_rxData (n : Nat) (s : State) : (setPreCnt n s).rxData = s.rxData := rfl
@[simp] theorem setPreCnt_rxhReg (n : Nat) (s : State) : (setPreCnt n s).rxhReg = s.rxhReg := rfl
@[simp] theorem setPreCnt_txpReg (n : Nat) (s : State) : (setPreCnt n s).txpReg = s.txpReg := rfl
@[simp] theorem setPreCnt_evFast (n : Nat) (s : State) : (setPreCnt n s).evFast = s.evFast := rfl
@[simp] theorem setPreCnt_evSlow (n : Nat) (s : State) : (setPreCnt n s).evSlow = s.evSlow := rfl
@[simp] theorem setPreCnt_irqFast (n : Nat) (s : State) : (setPreCnt n s).irqFast = s.irqFast := rfl
@[simp] theorem setPreCnt_irqSlow (n : Nat) (s : State) : (setPreCnt n s).irqSlow = s.irqSlow := rfl
@[simp] theorem setPreCnt_irqRx (n : Nat) (s : State) : (setPreCnt n s).irqRx = s.irqRx := rfl
@[simp] theorem setPreCnt_provTake (n : Nat) (s : State) : (setPreCnt n s).provTake = s.provTake := rfl
@[simp] theorem setPreCnt_txDone (n : Nat) (s : State) : (setPreCnt n s).txDone = s.txDone := rfl
@[simp] theorem setPreCnt_cmdFault (n : Nat) (s : State) : (setPreCnt n s).cmdFault = s.cmdFault := rfl
@[simp] theorem setPreCnt_cfg (n : Nat) (s : State) : (setPreCnt n s).cfg = s.cfg := rfl
@[simp] theorem setPreCnt_inputs (n : Nat) (s : State) : (setPreCnt n s).inputs = s.inputs := rfl
@[simp] theorem setPreCnt_cycle (n : Nat) (s : State) : (setPreCnt n s).cycle = s.cycle := rfl

@[simp] theorem setBaseCnt_tickEn (n : Nat) (s : State) : (setBaseCnt n s).tickEn = s.tickEn := rfl
@[simp] theorem setBaseCnt_preCnt (n : Nat) (s : State) : (setBaseCnt n s).preCnt = s.preCnt := rfl
@[simp] theorem setBaseCnt_baseCnt (n : Nat) (s : State) : (setBaseCnt n s).baseCnt = n := rfl
@[simp] theorem setBaseCnt_slowCnt (n : Nat) (s : State) : (setBaseCnt n s).slowCnt = s.slowCnt := rfl
@[simp] theorem setBaseCnt_fastSlot (n : Nat) (s : State) : (setBaseCnt n s).fastSlot = s.fastSlot := rfl
@[simp] theorem setBaseCnt_slowSlot (n : Nat) (s : State) : (setBaseCnt n s).slowSlot = s.slowSlot := rfl
@[simp] theorem setBaseCnt_lightEn (n : Nat) (s : State) : (setBaseCnt n s).lightEn = s.lightEn := rfl
@[simp] theorem setBaseCnt_mask (n : Nat) (s : State) : (setBaseCnt n s).mask = s.mask := rfl
@[simp] theorem setBaseCnt_brightness (n : Nat) (s : State) : (setBaseCnt n s).brightness = s.brightness := rfl
@[simp] theorem setBaseCnt_pwmCnt (n : Nat) (s : State) : (setBaseCnt n s).pwmCnt = s.pwmCnt := rfl
@[simp] theorem setBaseCnt_gate (n : Nat) (s : State) : (setBaseCnt n s).gate = s.gate := rfl
@[simp] theorem setBaseCnt_irEn (n : Nat) (s : State) : (setBaseCnt n s).irEn = s.irEn := rfl
@[simp] theorem setBaseCnt_carCnt (n : Nat) (s : State) : (setBaseCnt n s).carCnt = s.carCnt := rfl
@[simp] theorem setBaseCnt_carrier (n : Nat) (s : State) : (setBaseCnt n s).carrier = s.carrier := rfl
@[simp] theorem setBaseCnt_txBusy (n : Nat) (s : State) : (setBaseCnt n s).txBusy = s.txBusy := rfl
@[simp] theorem setBaseCnt_txData (n : Nat) (s : State) : (setBaseCnt n s).txData = s.txData := rfl
@[simp] theorem setBaseCnt_txIdx (n : Nat) (s : State) : (setBaseCnt n s).txIdx = s.txIdx := rfl
@[simp] theorem setBaseCnt_txCnt (n : Nat) (s : State) : (setBaseCnt n s).txCnt = s.txCnt := rfl
@[simp] theorem setBaseCnt_rxIntent (n : Nat) (s : State) : (setBaseCnt n s).rxIntent = s.rxIntent := rfl
@[simp] theorem setBaseCnt_rxHwEn (n : Nat) (s : State) : (setBaseCnt n s).rxHwEn = s.rxHwEn := rfl
@[simp] theorem setBaseCnt_rxPrev (n : Nat) (s : State) : (setBaseCnt n s).rxPrev = s.rxPrev := rfl
@[simp] theorem setBaseCnt_rxBusy (n : Nat) (s : State) : (setBaseCnt n s).rxBusy = s.rxBusy := rfl
@[simp] theorem setBaseCnt_rxIdx (n : Nat) (s : State) : (setBaseCnt n s).rxIdx = s.rxIdx := rfl
@[simp] theorem setBaseCnt_rxCnt (n : Nat) (s : State) : (setBaseCnt n s).rxCnt = s.rxCnt := rfl
@[simp] theorem setBaseCnt_rxShift (n : Nat) (s : State) : (setBaseCnt n s).rxShift = s.rxShift := rfl
@[simp] theorem setBaseCnt_rxData (n : Nat) (s : State) : (setBaseCnt n s).rxData = s.rxData := rfl
@[simp] theorem setBaseCnt_rxhReg (n : Nat) (s : State) : (setBaseCnt n s).rxhReg = s.rxhReg := rfl
@[simp] theorem setBaseCnt_txpReg (n : Nat) (s : State) : (setBaseCnt n s).txpReg = s.txpReg := rfl
@[simp] theorem setBaseCnt_evFast (n : Nat) (s : State) : (setBaseCnt n s).evFast = s.evFast := rfl
@[simp] theorem setBaseCnt_evSlow (n : Nat) (s : State) : (setBaseCnt n s).evSlow = s.evSlow := rfl
@[simp] theorem setBaseCnt_irqFast (n : Nat) (s : State) : (setBaseCnt n s).irqFast = s.irqFast := rfl
@[simp] theorem setBaseCnt_irqSlow (n : Nat) (s : State) : (setBaseCnt n s).irqSlow = s.irqSlow := rfl
@[simp] theorem setBaseCnt_irqRx (n : Nat) (s : State) : (setBaseCnt n s).irqRx = s.irqRx := rfl
@[simp] theorem setBaseCnt_provTake (n : Nat) (s : State) : (setBaseCnt n s).provTake = s.provTake := rfl
@[simp] theorem setBaseCnt_txDone (n : Nat) (s : State) : (setBaseCnt n s).txDone = s.txDone := rfl
@[simp] theorem setBaseCnt_cmdFault (n : Nat) (s : State) : (setBaseCnt n s).cmdFault = s.cmdFault := rfl
@[simp] theorem setBaseCnt_cfg (n : Nat) (s : State) : (setBaseCnt n s).cfg = s.cfg := rfl
@[simp] theorem setBaseCnt_inputs (n : Nat) (s : State) : (setBaseCnt n s).inputs = s.inputs := rfl
@[simp] theorem setBaseCnt_cycle (n : Nat) (s : State) : (setBaseCnt n s).cycle = s.cycle := rfl

@[simp] theorem countSlow_tickEn (s : State) : (countSlow s).tickEn = s.tickEn := rfl
@[simp] theorem countSlow_preCnt (s : State) : (countSlow s).preCnt = s.preCnt := rfl
@[simp] theorem countSlow_baseCnt (s : State) : (countSlow s).baseCnt = s.baseCnt := rfl
@[simp] theorem countSlow_slowCnt (s : State) : (countSlow s).slowCnt = (s.slowCnt + 1) % s.cfg.slowDiv := rfl
@[simp] theorem countSlow_fastSlot (s : State) : (countSlow s).fastSlot = s.fastSlot := rfl
@[simp] theorem countSlow_slowSlot (s : State) : (countSlow s).slowSlot = s.slowSlot := rfl
@[simp] theorem countSlow_lightEn (s : State) : (countSlow s).lightEn = s.lightEn := rfl
@[simp] theorem countSlow_mask (s : State) : (countSlow s).mask = s.mask := rfl
@[simp] theorem countSlow_brightness (s : State) : (countSlow s).brightness = s.brightness := rfl
@[simp] theorem countSlow_pwmCnt (s : State) : (countSlow s).pwmCnt = s.pwmCnt := rfl
@[simp] theorem countSlow_gate (s : State) : (countSlow s).gate = s.gate := rfl
@[simp] theorem countSlow_irEn (s : State) : (countSlow s).irEn = s.irEn := rfl
@[simp] theorem countSlow_carCnt (s : State) : (countSlow s).carCnt = s.carCnt := rfl
@[simp] theorem countSlow_carrier (s : State) : (countSlow s).carrier = s.carrier := rfl
@[simp] theorem countSlow_txBusy (s : State) : (countSlow s).txBusy = s.txBusy := rfl
@[simp] theorem countSlow_txData (s : State) : (countSlow s).txData = s.txData := rfl
@[simp] theorem countSlow_txIdx (s : State) : (countSlow s).txIdx = s.txIdx := rfl
@[simp] theorem countSlow_txCnt (s : State) : (countSlow s).txCnt = s.txCnt := rfl
@[simp] theorem countSlow_rxIntent (s : State) : (countSlow s).rxIntent = s.rxIntent := rfl
@[simp] theorem countSlow_rxHwEn (s : State) : (countSlow s).rxHwEn = s.rxHwEn := rfl
@[simp] theorem countSlow_rxPrev (s : State) : (countSlow s).rxPrev = s.rxPrev := rfl
@[simp] theorem countSlow_rxBusy (s : State) : (countSlow s).rxBusy = s.rxBusy := rfl
@[simp] theorem countSlow_rxIdx (s : State) : (countSlow s).rxIdx = s.rxIdx := rfl
@[simp] theorem countSlow_rxCnt (s : State) : (countSlow s).rxCnt = s.rxCnt := rfl
@[simp] theorem countSlow_rxShift (s : State) : (countSlow s).rxShift = s.rxShift := rfl
@[simp] theorem countSlow_rxData (s : State) : (countSlow s).rxData = s.rxData := rfl
@[simp] theorem countSlow_rxhReg (s : State) : (countSlow s).rxhReg = s.rxhReg := rfl
@[simp] theorem countSlow_txpReg (s : State) : (countSlow s).txpReg = s.txpReg := rfl
@[simp] theorem countSlow_evFast (s : State) : (countSlow s).evFast = s.evFast := rfl
@[simp] theorem countSlow_evSlow (s : State) : (countSlow s).evSlow = s.evSlow := rfl
@[simp] theorem countSlow_irqFast (s : State) : (countSlow s).irqFast = s.irqFast := rfl
@[simp] theorem countSlow_irqSlow (s : State) : (countSlow s).irqSlow = s.irqSlow := rfl
@[simp] theorem countSlow_irqRx (s : State) : (countSlow s).irqRx = s.irqRx := rfl
@[simp] theorem countSlow_provTake (s : State) : (countSlow s).provTake = s.provTake := rfl
@[simp] theorem countSlow_txDone (s : State) : (countSlow s).txDone = s.txDone := rfl
@[simp] theorem countSlow_cmdFault (s : State) : (countSlow s).cmdFault = s.cmdFault := rfl
@[simp] theorem countSlow_cfg (s : State) : (countSlow s).cfg = s.cfg := rfl
@[simp] theorem countSlow_inputs (s : State) : (countSlow s).inputs = s.inputs := rfl
@[simp] theorem countSlow_cycle (s : State) : (countSlow s).cycle = s.cycle := rfl

@[simp] theorem consumeInput_tickEn (s : State) : (consumeInput s).tickEn = s.tickEn := rfl
@[simp] theorem consumeInput_preCnt (s : State) : (consumeInput s).preCnt = s.preCnt := rfl
@[simp] theorem consumeInput_baseCnt (s : State) : (consumeInput s).baseCnt = s.baseCnt := rfl
@[simp] theorem consumeInput_slowCnt (s : State) : (consumeInput s).slowCnt = s.slowCnt := rfl
@[simp] theorem consumeInput_fastSlot (s : State) : (consumeInput s).fastSlot = s.fastSlot := rfl
@[simp] theorem consumeInput_slowSlot (s : State) : (consumeInput s).slowSlot = s.slowSlot := rfl
@[simp] theorem consumeInput_lightEn (s : State) : (consumeInput s).lightEn = s.lightEn := rfl
@[simp] theorem consumeInput_mask (s : State) : (consumeInput s).mask = s.mask := rfl
@[simp] theorem consumeInput_brightness (s : State) : (consumeInput s).brightness = s.brightness := rfl
@[simp] theorem consumeInput_pwmCnt (s : State) : (consumeInput s).pwmCnt = s.pwmCnt := rfl
@[simp] theorem consumeInput_gate (s : State) : (consumeInput s).gate = s.gate := rfl
@[simp] theorem consumeInput_irEn (s : State) : (consumeInput s).irEn = s.irEn := rfl
@[simp] theorem consumeInput_carCnt (s : State) : (consumeInput s).carCnt = s.carCnt := rfl
@[simp] theorem consumeInput_carrier (s : State) : (consumeInput s).carrier = s.carrier := rfl
@[simp] theorem consumeInput_txBusy (s : State) : (consumeInput s).txBusy = s.txBusy := rfl
@[simp] theorem consumeInput_txData (s : State) : (consumeInput s).txData = s.txData := rfl
@[simp] theorem consumeInput_txIdx (s : State) : (consumeInput s).txIdx = s.txIdx := rfl
@[simp] theorem consumeInput_txCnt (s : State) : (consumeInput s).txCnt = s.txCnt := rfl
@[simp] theorem consumeInput_rxIntent (s : State) : (consumeInput s).rxIntent = s.rxIntent := rfl
@[simp] theorem consumeInput_rxHwEn (s : State) : (consumeInput s).rxHwEn = s.rxHwEn := rfl
@[simp] theorem consumeInput_rxPrev (s : State) : (consumeInput s).rxPrev = s.rxPrev := rfl
@[simp] theorem consumeInput_rxBusy (s : State) : (consumeInput s).rxBusy = s.rxBusy := rfl
@[simp] theorem consumeInput_rxIdx (s : State) : (consumeInput s).rxIdx = s.rxIdx := rfl
@[simp] theorem consumeInput_rxCnt (s : State) : (consumeInput s).rxCnt = s.rxCnt := rfl
@[simp] theorem consumeInput_rxShift (s : State) : (consumeInput s).rxShift = s.rxShift := rfl
@[simp] theorem consumeInput_rxData (s : State) : (consumeInput s).rxData = s.rxData := rfl
@[simp] theorem consumeInput_rxhReg (s : State) : (consumeInput s).rxhReg = s.rxhReg := rfl
@[simp] theorem consumeInput_txpReg (s : State) : (consumeInput s).txpReg = s.txpReg := rfl
@[simp] theorem consumeInput_evFast (s : State) : (consumeInput s).evFast = s.evFast := rfl
@[simp] theorem consumeInput_evSlow (s : State) : (consumeInput s).evSlow = s.evSlow := rfl
@[simp] theorem consumeInput_irqFast (s : State) : (consumeInput s).irqFast = s.irqFast := rfl
@[simp] theorem consumeInput_irqSlow (s : State) : (consumeInput s).irqSlow = s.irqSlow := rfl
@[simp] theorem consumeInput_irqRx (s : State) : (consumeInput s).irqRx = s.irqRx := rfl
@[simp] theorem consumeInput_provTake (s : State) : (consumeInput s).provTake = s.provTake := rfl
@[simp] theorem consumeInput_txDone (s : State) : (consumeInput s).txDone = s.txDone := rfl
@[simp] theorem consumeInput_cmdFault (s : State) : (consumeInput s).cmdFault = s.cmdFault := rfl
@[simp] theorem consumeInput_cfg (s : State) : (consumeInput s).cfg = s.cfg := rfl
@[simp] theorem consumeInput_inputs (s : State) : (consumeInput s).inputs = s.inputs.tail := rfl
@[simp] theorem consumeInput_cycle (s : State) : (consumeInput s).cycle = s.cycle + 1 := rfl

@[simp] theorem resetBlock_tickEn (s : State) : (resetBlock s).tickEn = false := rfl
@[simp] theorem resetBlock_preCnt (s : State) : (resetBlock s).preCnt = 0 := rfl
@[simp] theorem resetBlock_baseCnt (s : State) : (resetBlock s).baseCnt = 0 := rfl
@[simp] theorem resetBlock_slowCnt (s : State) : (resetBlock s).slowCnt = 0 := rfl
@[simp] theorem resetBlock_fastSlot (s : State) : (resetBlock s).fastSlot = .hNone := rfl
@[simp] theorem resetBlock_slowSlot (s : State) : (resetBlock s).slowSlot = .hNone := rfl
@[simp] theorem resetBlock_lightEn (s : State) : (resetBlock s).lightEn = false := rfl
@[simp] theorem resetBlock_mask (s : State) : (resetBlock s).mask = 0#3 := rfl
@[simp] theorem resetBlock_brightness (s : State) : (resetBlock s).brightness = 0 := rfl
@[simp] theorem resetBlock_pwmCnt (s : State) : (resetBlock s).pwmCnt = 0 := rfl
@[simp] theorem resetBlock_gate (s : State) : (resetBlock s).gate = false := rfl
@[simp] theorem resetBlock_irEn (s : State) : (resetBlock s).irEn = false := rfl
@[simp] theorem resetBlock_carCnt (s : State) : (resetBlock s).carCnt = 0 := rfl
@[simp] theorem resetBlock_carrier (s : State) : (resetBlock s).carrier = false := rfl
@[simp] theorem resetBlock_txBusy (s : State) : (resetBlock s).txBusy = false := rfl
@[simp] theorem resetBlock_txData (s : State) : (resetBlock s).txData = 0#8 := rfl
@[simp] theorem resetBlock_txIdx (s : State) : (resetBlock s).txIdx = 0 := rfl
@[simp] theorem resetBlock_txCnt (s : State) : (resetBlock s).txCnt = 0 := rfl
@[simp] theorem resetBlock_rxIntent (s : State) : (resetBlock s).rxIntent = false := rfl
@[simp] theorem resetBlock_rxHwEn (s : State) : (resetBlock s).rxHwEn = false := rfl
@[simp] theorem resetBlock_rxPrev (s : State) : (resetBlock s).rxPrev = true := rfl
@[simp] theorem resetBlock_rxBusy (s : State) : (resetBlock s).rxBusy = false := rfl
@[simp] theorem resetBlock_rxIdx (s : State) : (resetBlock s).rxIdx = 0 := rfl
@[simp] theorem resetBlock_rxCnt (s : State) : (resetBlock s).rxCnt = 0 := rfl
@[simp] theorem resetBlock_rxShift (s : State) : (resetBlock s).rxShift = 0#8 := rfl
@[simp] theorem resetBlock_rxData (s : State) : (resetBlock s).rxData = 0#8 := rfl
@[simp] theorem resetBlock_rxhReg (s : State) : (resetBlock s).rxhReg = false := rfl
@[simp] theorem resetBlock_txpReg (s : State) : (resetBlock s).txpReg = false := rfl
@[simp] theorem resetBlock_evFast (s : State) : (resetBlock s).evFast = false := rfl
@[simp] theorem resetBlock_evSlow (s : State) : (resetBlock s).evSlow = false := rfl
@[simp] theorem resetBlock_irqFast (s : State) : (resetBlock s).irqFast = false := rfl
@[simp] theorem resetBlock_irqSlow (s : State) : (resetBlock s).irqSlow = false := rfl
@[simp] theorem resetBlock_irqRx (s : State) : (resetBlock s).irqRx = false := rfl
@[simp] theorem resetBlock_provTake (s : State) : (resetBlock s).provTake = false := rfl
@[simp] theorem resetBlock_txDone (s : State) : (resetBlock s).txDone = false := rfl
@[simp] theorem resetBlock_cmdFault (s : State) : (resetBlock s).cmdFault = false := rfl
@[simp] theorem resetBlock_cfg (s : State) : (resetBlock s).cfg = s.cfg := rfl
@[simp] theorem resetBlock_inputs (s : State) : (resetBlock s).inputs = s.inputs := rfl
@[simp] theorem resetBlock_cycle (s : State) : (resetBlock s).cycle = s.cycle := rfl

@[simp] theorem resetWith_tickEn (c : Cfg) : (State.resetWith c).tickEn = false := rfl
@[simp] theorem resetWith_preCnt (c : Cfg) : (State.resetWith c).preCnt = 0 := rfl
@[simp] theorem resetWith_baseCnt (c : Cfg) : (State.resetWith c).baseCnt = 0 := rfl
@[simp] theorem resetWith_slowCnt (c : Cfg) : (State.resetWith c).slowCnt = 0 := rfl
@[simp] theorem resetWith_fastSlot (c : Cfg) : (State.resetWith c).fastSlot = .hNone := rfl
@[simp] theorem resetWith_slowSlot (c : Cfg) : (State.resetWith c).slowSlot = .hNone := rfl
@[simp] theorem resetWith_lightEn (c : Cfg) : (State.resetWith c).lightEn = false := rfl
@[simp] theorem resetWith_mask (c : Cfg) : (State.resetWith c).mask = 0#3 := rfl
@[simp] theorem resetWith_brightness (c : Cfg) : (State.resetWith c).brightness = 0 := rfl
@[simp] theorem resetWith_pwmCnt (c : Cfg) : (State.resetWith c).pwmCnt = 0 := rfl
@[simp] theorem resetWith_gate (c : Cfg) : (State.resetWith c).gate = false := rfl
@[simp] theorem resetWith_irEn (c : Cfg) : (State.resetWith c).irEn = false := rfl
@[simp] theorem resetWith_carCnt (c : Cfg) : (State.resetWith c).carCnt = 0 := rfl
@[simp] theorem resetWith_carrier (c : Cfg) : (State.resetWith c).carrier = false := rfl
@[simp] theorem resetWith_txBusy (c : Cfg) : (State.resetWith c).txBusy = false := rfl
@[simp] theorem resetWith_txData (c : Cfg) : (State.resetWith c).txData = 0#8 := rfl
@[simp] theorem resetWith_txIdx (c : Cfg) : (State.resetWith c).txIdx = 0 := rfl
@[simp] theorem resetWith_txCnt (c : Cfg) : (State.resetWith c).txCnt = 0 := rfl
@[simp] theorem resetWith_rxIntent (c : Cfg) : (State.resetWith c).rxIntent = false := rfl
@[simp] theorem resetWith_rxHwEn (c : Cfg) : (State.resetWith c).rxHwEn = false := rfl
@[simp] theorem resetWith_rxPrev (c : Cfg) : (State.resetWith c).rxPrev = true := rfl
@[simp] theorem resetWith_rxBusy (c : Cfg) : (State.resetWith c).rxBusy = false := rfl
@[simp] theorem resetWith_rxIdx (c : Cfg) : (State.resetWith c).rxIdx = 0 := rfl
@[simp] theorem resetWith_rxCnt (c : Cfg) : (State.resetWith c).rxCnt = 0 := rfl
@[simp] theorem resetWith_rxShift (c : Cfg) : (State.resetWith c).rxShift = 0#8 := rfl
@[simp] theorem resetWith_rxData (c : Cfg) : (State.resetWith c).rxData = 0#8 := rfl
@[simp] theorem resetWith_rxhReg (c : Cfg) : (State.resetWith c).rxhReg = false := rfl
@[simp] theorem resetWith_txpReg (c : Cfg) : (State.resetWith c).txpReg = false := rfl
@[simp] theorem resetWith_evFast (c : Cfg) : (State.resetWith c).evFast = false := rfl
@[simp] theorem resetWith_evSlow (c : Cfg) : (State.resetWith c).evSlow = false := rfl
@[simp] theorem resetWith_irqFast (c : Cfg) : (State.resetWith c).irqFast = false := rfl
@[simp] theorem resetWith_irqSlow (c : Cfg) : (State.resetWith c).irqSlow = false := rfl
@[simp] theorem resetWith_irqRx (c : Cfg) : (State.resetWith c).irqRx = false := rfl
@[simp] theorem resetWith_provTake (c : Cfg) : (State.resetWith c).provTake = false := rfl
@[simp] theorem resetWith_txDone (c : Cfg) : (State.resetWith c).txDone = false := rfl
@[simp] theorem resetWith_cmdFault (c : Cfg) : (State.resetWith c).cmdFault = false := rfl
@[simp] theorem resetWith_cfg (c : Cfg) : (State.resetWith c).cfg = c := rfl
@[simp] theorem resetWith_inputs (c : Cfg) : (State.resetWith c).inputs = [] := rfl
@[simp] theorem resetWith_cycle (c : Cfg) : (State.resetWith c).cycle = 0 := rfl

end Machine
end Sys2Proof
end

