-- ==== Sys2Proof/Laws/Frames.lean ====
section
/-!
SUPPORT. For each engine procedure, the fields it leaves unchanged: one lemma per field, tagged `@[simp]`. The
values of the fields it writes are in `Sys2Proof/Laws/Engines.lean`.
-/

namespace Sys2Proof
namespace Machine

@[simp] theorem pwmStep_tickEn (s : State) : (pwmStep s).tickEn = s.tickEn := rfl
@[simp] theorem pwmStep_preCnt (s : State) : (pwmStep s).preCnt = s.preCnt := rfl
@[simp] theorem pwmStep_baseCnt (s : State) : (pwmStep s).baseCnt = s.baseCnt := rfl
@[simp] theorem pwmStep_slowCnt (s : State) : (pwmStep s).slowCnt = s.slowCnt := rfl
@[simp] theorem pwmStep_fastSlot (s : State) : (pwmStep s).fastSlot = s.fastSlot := rfl
@[simp] theorem pwmStep_slowSlot (s : State) : (pwmStep s).slowSlot = s.slowSlot := rfl
@[simp] theorem pwmStep_lightEn (s : State) : (pwmStep s).lightEn = s.lightEn := rfl
@[simp] theorem pwmStep_mask (s : State) : (pwmStep s).mask = s.mask := rfl
@[simp] theorem pwmStep_brightness (s : State) : (pwmStep s).brightness = s.brightness := rfl
@[simp] theorem pwmStep_irEn (s : State) : (pwmStep s).irEn = s.irEn := rfl
@[simp] theorem pwmStep_carCnt (s : State) : (pwmStep s).carCnt = s.carCnt := rfl
@[simp] theorem pwmStep_carrier (s : State) : (pwmStep s).carrier = s.carrier := rfl
@[simp] theorem pwmStep_txBusy (s : State) : (pwmStep s).txBusy = s.txBusy := rfl
@[simp] theorem pwmStep_txData (s : State) : (pwmStep s).txData = s.txData := rfl
@[simp] theorem pwmStep_txIdx (s : State) : (pwmStep s).txIdx = s.txIdx := rfl
@[simp] theorem pwmStep_txCnt (s : State) : (pwmStep s).txCnt = s.txCnt := rfl
@[simp] theorem pwmStep_rxIntent (s : State) : (pwmStep s).rxIntent = s.rxIntent := rfl
@[simp] theorem pwmStep_rxHwEn (s : State) : (pwmStep s).rxHwEn = s.rxHwEn := rfl
@[simp] theorem pwmStep_rxPrev (s : State) : (pwmStep s).rxPrev = s.rxPrev := rfl
@[simp] theorem pwmStep_rxBusy (s : State) : (pwmStep s).rxBusy = s.rxBusy := rfl
@[simp] theorem pwmStep_rxIdx (s : State) : (pwmStep s).rxIdx = s.rxIdx := rfl
@[simp] theorem pwmStep_rxCnt (s : State) : (pwmStep s).rxCnt = s.rxCnt := rfl
@[simp] theorem pwmStep_rxShift (s : State) : (pwmStep s).rxShift = s.rxShift := rfl
@[simp] theorem pwmStep_rxData (s : State) : (pwmStep s).rxData = s.rxData := rfl
@[simp] theorem pwmStep_rxhReg (s : State) : (pwmStep s).rxhReg = s.rxhReg := rfl
@[simp] theorem pwmStep_txpReg (s : State) : (pwmStep s).txpReg = s.txpReg := rfl
@[simp] theorem pwmStep_evFast (s : State) : (pwmStep s).evFast = s.evFast := rfl
@[simp] theorem pwmStep_evSlow (s : State) : (pwmStep s).evSlow = s.evSlow := rfl
@[simp] theorem pwmStep_irqFast (s : State) : (pwmStep s).irqFast = s.irqFast := rfl
@[simp] theorem pwmStep_irqSlow (s : State) : (pwmStep s).irqSlow = s.irqSlow := rfl
@[simp] theorem pwmStep_irqRx (s : State) : (pwmStep s).irqRx = s.irqRx := rfl
@[simp] theorem pwmStep_provTake (s : State) : (pwmStep s).provTake = s.provTake := rfl
@[simp] theorem pwmStep_txDone (s : State) : (pwmStep s).txDone = s.txDone := rfl
@[simp] theorem pwmStep_cmdFault (s : State) : (pwmStep s).cmdFault = s.cmdFault := rfl
@[simp] theorem pwmStep_cfg (s : State) : (pwmStep s).cfg = s.cfg := rfl
@[simp] theorem pwmStep_inputs (s : State) : (pwmStep s).inputs = s.inputs := rfl
@[simp] theorem pwmStep_cycle (s : State) : (pwmStep s).cycle = s.cycle := rfl

@[simp] theorem txReadyHandler_tickEn (s : State) : (txReadyHandler s).tickEn = s.tickEn := by unfold txReadyHandler; split <;> rfl
@[simp] theorem txReadyHandler_preCnt (s : State) : (txReadyHandler s).preCnt = s.preCnt := by unfold txReadyHandler; split <;> rfl
@[simp] theorem txReadyHandler_baseCnt (s : State) : (txReadyHandler s).baseCnt = s.baseCnt := by unfold txReadyHandler; split <;> rfl
@[simp] theorem txReadyHandler_slowCnt (s : State) : (txReadyHandler s).slowCnt = s.slowCnt := by unfold txReadyHandler; split <;> rfl
@[simp] theorem txReadyHandler_fastSlot (s : State) : (txReadyHandler s).fastSlot = s.fastSlot := by unfold txReadyHandler; split <;> rfl
@[simp] theorem txReadyHandler_slowSlot (s : State) : (txReadyHandler s).slowSlot = s.slowSlot := by unfold txReadyHandler; split <;> rfl
@[simp] theorem txReadyHandler_lightEn (s : State) : (txReadyHandler s).lightEn = s.lightEn := by unfold txReadyHandler; split <;> rfl
@[simp] theorem txReadyHandler_mask (s : State) : (txReadyHandler s).mask = s.mask := by unfold txReadyHandler; split <;> rfl
@[simp] theorem txReadyHandler_brightness (s : State) : (txReadyHandler s).brightness = s.brightness := by unfold txReadyHandler; split <;> rfl
@[simp] theorem txReadyHandler_pwmCnt (s : State) : (txReadyHandler s).pwmCnt = s.pwmCnt := by unfold txReadyHandler; split <;> rfl
@[simp] theorem txReadyHandler_gate (s : State) : (txReadyHandler s).gate = s.gate := by unfold txReadyHandler; split <;> rfl
@[simp] theorem txReadyHandler_irEn (s : State) : (txReadyHandler s).irEn = s.irEn := by unfold txReadyHandler; split <;> rfl
@[simp] theorem txReadyHandler_carCnt (s : State) : (txReadyHandler s).carCnt = s.carCnt := by unfold txReadyHandler; split <;> rfl
@[simp] theorem txReadyHandler_carrier (s : State) : (txReadyHandler s).carrier = s.carrier := by unfold txReadyHandler; split <;> rfl
@[simp] theorem txReadyHandler_txBusy (s : State) : (txReadyHandler s).txBusy = s.txBusy := by unfold txReadyHandler; split <;> rfl
@[simp] theorem txReadyHandler_txData (s : State) : (txReadyHandler s).txData = s.txData := by unfold txReadyHandler; split <;> rfl
@[simp] theorem txReadyHandler_txIdx (s : State) : (txReadyHandler s).txIdx = s.txIdx := by unfold txReadyHandler; split <;> rfl
@[simp] theorem txReadyHandler_txCnt (s : State) : (txReadyHandler s).txCnt = s.txCnt := by unfold txReadyHandler; split <;> rfl
@[simp] theorem txReadyHandler_rxIntent (s : State) : (txReadyHandler s).rxIntent = s.rxIntent := by unfold txReadyHandler; split <;> rfl
@[simp] theorem txReadyHandler_rxPrev (s : State) : (txReadyHandler s).rxPrev = s.rxPrev := by unfold txReadyHandler; split <;> rfl
@[simp] theorem txReadyHandler_rxBusy (s : State) : (txReadyHandler s).rxBusy = s.rxBusy := by unfold txReadyHandler; split <;> rfl
@[simp] theorem txReadyHandler_rxIdx (s : State) : (txReadyHandler s).rxIdx = s.rxIdx := by unfold txReadyHandler; split <;> rfl
@[simp] theorem txReadyHandler_rxCnt (s : State) : (txReadyHandler s).rxCnt = s.rxCnt := by unfold txReadyHandler; split <;> rfl
@[simp] theorem txReadyHandler_rxShift (s : State) : (txReadyHandler s).rxShift = s.rxShift := by unfold txReadyHandler; split <;> rfl
@[simp] theorem txReadyHandler_rxData (s : State) : (txReadyHandler s).rxData = s.rxData := by unfold txReadyHandler; split <;> rfl
@[simp] theorem txReadyHandler_rxhReg (s : State) : (txReadyHandler s).rxhReg = s.rxhReg := by unfold txReadyHandler; split <;> rfl
@[simp] theorem txReadyHandler_txpReg (s : State) : (txReadyHandler s).txpReg = s.txpReg := by unfold txReadyHandler; split <;> rfl
@[simp] theorem txReadyHandler_evFast (s : State) : (txReadyHandler s).evFast = s.evFast := by unfold txReadyHandler; split <;> rfl
@[simp] theorem txReadyHandler_evSlow (s : State) : (txReadyHandler s).evSlow = s.evSlow := by unfold txReadyHandler; split <;> rfl
@[simp] theorem txReadyHandler_irqFast (s : State) : (txReadyHandler s).irqFast = s.irqFast := by unfold txReadyHandler; split <;> rfl
@[simp] theorem txReadyHandler_irqSlow (s : State) : (txReadyHandler s).irqSlow = s.irqSlow := by unfold txReadyHandler; split <;> rfl
@[simp] theorem txReadyHandler_irqRx (s : State) : (txReadyHandler s).irqRx = s.irqRx := by unfold txReadyHandler; split <;> rfl
@[simp] theorem txReadyHandler_provTake (s : State) : (txReadyHandler s).provTake = s.provTake := by unfold txReadyHandler; split <;> rfl
@[simp] theorem txReadyHandler_txDone (s : State) : (txReadyHandler s).txDone = s.txDone := by unfold txReadyHandler; split <;> rfl
@[simp] theorem txReadyHandler_cmdFault (s : State) : (txReadyHandler s).cmdFault = s.cmdFault := by unfold txReadyHandler; split <;> rfl
@[simp] theorem txReadyHandler_cfg (s : State) : (txReadyHandler s).cfg = s.cfg := by unfold txReadyHandler; split <;> rfl
@[simp] theorem txReadyHandler_inputs (s : State) : (txReadyHandler s).inputs = s.inputs := by unfold txReadyHandler; split <;> rfl
@[simp] theorem txReadyHandler_cycle (s : State) : (txReadyHandler s).cycle = s.cycle := by unfold txReadyHandler; split <;> rfl

@[simp] theorem txAdvance_tickEn (s : State) : (txAdvance s).tickEn = s.tickEn := by
  unfold txAdvance txNextBit; split_ifs <;> simp
@[simp] theorem txAdvance_preCnt (s : State) : (txAdvance s).preCnt = s.preCnt := by
  unfold txAdvance txNextBit; split_ifs <;> simp
@[simp] theorem txAdvance_baseCnt (s : State) : (txAdvance s).baseCnt = s.baseCnt := by
  unfold txAdvance txNextBit; split_ifs <;> simp
@[simp] theorem txAdvance_slowCnt (s : State) : (txAdvance s).slowCnt = s.slowCnt := by
  unfold txAdvance txNextBit; split_ifs <;> simp
@[simp] theorem txAdvance_fastSlot (s : State) : (txAdvance s).fastSlot = s.fastSlot := by
  unfold txAdvance txNextBit; split_ifs <;> simp
@[simp] theorem txAdvance_slowSlot (s : State) : (txAdvance s).slowSlot = s.slowSlot := by
  unfold txAdvance txNextBit; split_ifs <;> simp
@[simp] theorem txAdvance_lightEn (s : State) : (txAdvance s).lightEn = s.lightEn := by
  unfold txAdvance txNextBit; split_ifs <;> simp
@[simp] theorem txAdvance_mask (s : State) : (txAdvance s).mask = s.mask := by
  unfold txAdvance txNextBit; split_ifs <;> simp
@[simp] theorem txAdvance_brightness (s : State) : (txAdvance s).brightness = s.brightness := by
  unfold txAdvance txNextBit; split_ifs <;> simp
@[simp] theorem txAdvance_pwmCnt (s : State) : (txAdvance s).pwmCnt = s.pwmCnt := by
  unfold txAdvance txNextBit; split_ifs <;> simp
@[simp] theorem txAdvance_gate (s : State) : (txAdvance s).gate = s.gate := by
  unfold txAdvance txNextBit; split_ifs <;> simp
@[simp] theorem txAdvance_irEn (s : State) : (txAdvance s).irEn = s.irEn := by
  unfold txAdvance txNextBit; split_ifs <;> simp
@[simp] theorem txAdvance_carCnt (s : State) : (txAdvance s).carCnt = s.carCnt := by
  unfold txAdvance txNextBit; split_ifs <;> simp
@[simp] theorem txAdvance_carrier (s : State) : (txAdvance s).carrier = s.carrier := by
  unfold txAdvance txNextBit; split_ifs <;> simp
@[simp] theorem txAdvance_txData (s : State) : (txAdvance s).txData = s.txData := by
  unfold txAdvance txNextBit; split_ifs <;> simp
@[simp] theorem txAdvance_rxIntent (s : State) : (txAdvance s).rxIntent = s.rxIntent := by
  unfold txAdvance txNextBit; split_ifs <;> simp
@[simp] theorem txAdvance_rxPrev (s : State) : (txAdvance s).rxPrev = s.rxPrev := by
  unfold txAdvance txNextBit; split_ifs <;> simp
@[simp] theorem txAdvance_rxBusy (s : State) : (txAdvance s).rxBusy = s.rxBusy := by
  unfold txAdvance txNextBit; split_ifs <;> simp
@[simp] theorem txAdvance_rxIdx (s : State) : (txAdvance s).rxIdx = s.rxIdx := by
  unfold txAdvance txNextBit; split_ifs <;> simp
@[simp] theorem txAdvance_rxCnt (s : State) : (txAdvance s).rxCnt = s.rxCnt := by
  unfold txAdvance txNextBit; split_ifs <;> simp
@[simp] theorem txAdvance_rxShift (s : State) : (txAdvance s).rxShift = s.rxShift := by
  unfold txAdvance txNextBit; split_ifs <;> simp
@[simp] theorem txAdvance_rxData (s : State) : (txAdvance s).rxData = s.rxData := by
  unfold txAdvance txNextBit; split_ifs <;> simp
@[simp] theorem txAdvance_rxhReg (s : State) : (txAdvance s).rxhReg = s.rxhReg := by
  unfold txAdvance txNextBit; split_ifs <;> simp
@[simp] theorem txAdvance_txpReg (s : State) : (txAdvance s).txpReg = s.txpReg := by
  unfold txAdvance txNextBit; split_ifs <;> simp
@[simp] theorem txAdvance_evFast (s : State) : (txAdvance s).evFast = s.evFast := by
  unfold txAdvance txNextBit; split_ifs <;> simp
@[simp] theorem txAdvance_evSlow (s : State) : (txAdvance s).evSlow = s.evSlow := by
  unfold txAdvance txNextBit; split_ifs <;> simp
@[simp] theorem txAdvance_irqFast (s : State) : (txAdvance s).irqFast = s.irqFast := by
  unfold txAdvance txNextBit; split_ifs <;> simp
@[simp] theorem txAdvance_irqSlow (s : State) : (txAdvance s).irqSlow = s.irqSlow := by
  unfold txAdvance txNextBit; split_ifs <;> simp
@[simp] theorem txAdvance_irqRx (s : State) : (txAdvance s).irqRx = s.irqRx := by
  unfold txAdvance txNextBit; split_ifs <;> simp
@[simp] theorem txAdvance_provTake (s : State) : (txAdvance s).provTake = s.provTake := by
  unfold txAdvance txNextBit; split_ifs <;> simp
@[simp] theorem txAdvance_cmdFault (s : State) : (txAdvance s).cmdFault = s.cmdFault := by
  unfold txAdvance txNextBit; split_ifs <;> simp
@[simp] theorem txAdvance_cfg (s : State) : (txAdvance s).cfg = s.cfg := by
  unfold txAdvance txNextBit; split_ifs <;> simp
@[simp] theorem txAdvance_inputs (s : State) : (txAdvance s).inputs = s.inputs := by
  unfold txAdvance txNextBit; split_ifs <;> simp
@[simp] theorem txAdvance_cycle (s : State) : (txAdvance s).cycle = s.cycle := by
  unfold txAdvance txNextBit; split_ifs <;> simp

@[simp] theorem txPush_tickEn (b : Byte) (s : State) : (txPush b s).tickEn = s.tickEn := by unfold txPush; split <;> rfl
@[simp] theorem txPush_preCnt (b : Byte) (s : State) : (txPush b s).preCnt = s.preCnt := by unfold txPush; split <;> rfl
@[simp] theorem txPush_baseCnt (b : Byte) (s : State) : (txPush b s).baseCnt = s.baseCnt := by unfold txPush; split <;> rfl
@[simp] theorem txPush_slowCnt (b : Byte) (s : State) : (txPush b s).slowCnt = s.slowCnt := by unfold txPush; split <;> rfl
@[simp] theorem txPush_fastSlot (b : Byte) (s : State) : (txPush b s).fastSlot = s.fastSlot := by unfold txPush; split <;> rfl
@[simp] theorem txPush_slowSlot (b : Byte) (s : State) : (txPush b s).slowSlot = s.slowSlot := by unfold txPush; split <;> rfl
@[simp] theorem txPush_lightEn (b : Byte) (s : State) : (txPush b s).lightEn = s.lightEn := by unfold txPush; split <;> rfl
@[simp] theorem txPush_mask (b : Byte) (s : State) : (txPush b s).mask = s.mask := by unfold txPush; split <;> rfl
@[simp] theorem txPush_brightness (b : Byte) (s : State) : (txPush b s).brightness = s.brightness := by unfold txPush; split <;> rfl
@[simp] theorem txPush_pwmCnt (b : Byte) (s : State) : (txPush b s).pwmCnt = s.pwmCnt := by unfold txPush; split <;> rfl
@[simp] theorem txPush_gate (b : Byte) (s : State) : (txPush b s).gate = s.gate := by unfold txPush; split <;> rfl
@[simp] theorem txPush_irEn (b : Byte) (s : State) : (txPush b s).irEn = s.irEn := by unfold txPush; split <;> rfl
@[simp] theorem txPush_carCnt (b : Byte) (s : State) : (txPush b s).carCnt = s.carCnt := by unfold txPush; split <;> rfl
@[simp] theorem txPush_carrier (b : Byte) (s : State) : (txPush b s).carrier = s.carrier := by unfold txPush; split <;> rfl
@[simp] theorem txPush_rxIntent (b : Byte) (s : State) : (txPush b s).rxIntent = s.rxIntent := by unfold txPush; split <;> rfl
@[simp] theorem txPush_rxHwEn (b : Byte) (s : State) : (txPush b s).rxHwEn = s.rxHwEn := by unfold txPush; split <;> rfl
@[simp] theorem txPush_rxPrev (b : Byte) (s : State) : (txPush b s).rxPrev = s.rxPrev := by unfold txPush; split <;> rfl
@[simp] theorem txPush_rxBusy (b : Byte) (s : State) : (txPush b s).rxBusy = s.rxBusy := by unfold txPush; split <;> rfl
@[simp] theorem txPush_rxIdx (b : Byte) (s : State) : (txPush b s).rxIdx = s.rxIdx := by unfold txPush; split <;> rfl
@[simp] theorem txPush_rxCnt (b : Byte) (s : State) : (txPush b s).rxCnt = s.rxCnt := by unfold txPush; split <;> rfl
@[simp] theorem txPush_rxShift (b : Byte) (s : State) : (txPush b s).rxShift = s.rxShift := by unfold txPush; split <;> rfl
@[simp] theorem txPush_rxData (b : Byte) (s : State) : (txPush b s).rxData = s.rxData := by unfold txPush; split <;> rfl
@[simp] theorem txPush_rxhReg (b : Byte) (s : State) : (txPush b s).rxhReg = s.rxhReg := by unfold txPush; split <;> rfl
@[simp] theorem txPush_txpReg (b : Byte) (s : State) : (txPush b s).txpReg = s.txpReg := by unfold txPush; split <;> rfl
@[simp] theorem txPush_evFast (b : Byte) (s : State) : (txPush b s).evFast = s.evFast := by unfold txPush; split <;> rfl
@[simp] theorem txPush_evSlow (b : Byte) (s : State) : (txPush b s).evSlow = s.evSlow := by unfold txPush; split <;> rfl
@[simp] theorem txPush_irqFast (b : Byte) (s : State) : (txPush b s).irqFast = s.irqFast := by unfold txPush; split <;> rfl
@[simp] theorem txPush_irqSlow (b : Byte) (s : State) : (txPush b s).irqSlow = s.irqSlow := by unfold txPush; split <;> rfl
@[simp] theorem txPush_irqRx (b : Byte) (s : State) : (txPush b s).irqRx = s.irqRx := by unfold txPush; split <;> rfl
@[simp] theorem txPush_provTake (b : Byte) (s : State) : (txPush b s).provTake = s.provTake := by unfold txPush; split <;> rfl
@[simp] theorem txPush_txDone (b : Byte) (s : State) : (txPush b s).txDone = s.txDone := by unfold txPush; split <;> rfl
@[simp] theorem txPush_cmdFault (b : Byte) (s : State) : (txPush b s).cmdFault = s.cmdFault := by unfold txPush; split <;> rfl
@[simp] theorem txPush_cfg (b : Byte) (s : State) : (txPush b s).cfg = s.cfg := by unfold txPush; split <;> rfl
@[simp] theorem txPush_inputs (b : Byte) (s : State) : (txPush b s).inputs = s.inputs := by unfold txPush; split <;> rfl
@[simp] theorem txPush_cycle (b : Byte) (s : State) : (txPush b s).cycle = s.cycle := by unfold txPush; split <;> rfl

@[simp] theorem irPeriodicStep_tickEn (prov : Byte) (s : State) : (irPeriodicStep prov s).tickEn = s.tickEn := by
  unfold irPeriodicStep; split <;> simp
@[simp] theorem irPeriodicStep_preCnt (prov : Byte) (s : State) : (irPeriodicStep prov s).preCnt = s.preCnt := by
  unfold irPeriodicStep; split <;> simp
@[simp] theorem irPeriodicStep_baseCnt (prov : Byte) (s : State) : (irPeriodicStep prov s).baseCnt = s.baseCnt := by
  unfold irPeriodicStep; split <;> simp
@[simp] theorem irPeriodicStep_slowCnt (prov : Byte) (s : State) : (irPeriodicStep prov s).slowCnt = s.slowCnt := by
  unfold irPeriodicStep; split <;> simp
@[simp] theorem irPeriodicStep_fastSlot (prov : Byte) (s : State) : (irPeriodicStep prov s).fastSlot = s.fastSlot := by
  unfold irPeriodicStep; split <;> simp
@[simp] theorem irPeriodicStep_slowSlot (prov : Byte) (s : State) : (irPeriodicStep prov s).slowSlot = s.slowSlot := by
  unfold irPeriodicStep; split <;> simp
@[simp] theorem irPeriodicStep_lightEn (prov : Byte) (s : State) : (irPeriodicStep prov s).lightEn = s.lightEn := by
  unfold irPeriodicStep; split <;> simp
@[simp] theorem irPeriodicStep_mask (prov : Byte) (s : State) : (irPeriodicStep prov s).mask = s.mask := by
  unfold irPeriodicStep; split <;> simp
@[simp] theorem irPeriodicStep_brightness (prov : Byte) (s : State) : (irPeriodicStep prov s).brightness = s.brightness := by
  unfold irPeriodicStep; split <;> simp
@[simp] theorem irPeriodicStep_pwmCnt (prov : Byte) (s : State) : (irPeriodicStep prov s).pwmCnt = s.pwmCnt := by
  unfold irPeriodicStep; split <;> simp
@[simp] theorem irPeriodicStep_gate (prov : Byte) (s : State) : (irPeriodicStep prov s).gate = s.gate := by
  unfold irPeriodicStep; split <;> simp
@[simp] theorem irPeriodicStep_irEn (prov : Byte) (s : State) : (irPeriodicStep prov s).irEn = s.irEn := by
  unfold irPeriodicStep; split <;> simp
@[simp] theorem irPeriodicStep_carCnt (prov : Byte) (s : State) : (irPeriodicStep prov s).carCnt = s.carCnt := by
  unfold irPeriodicStep; split <;> simp
@[simp] theorem irPeriodicStep_carrier (prov : Byte) (s : State) : (irPeriodicStep prov s).carrier = s.carrier := by
  unfold irPeriodicStep; split <;> simp
@[simp] theorem irPeriodicStep_rxIntent (prov : Byte) (s : State) : (irPeriodicStep prov s).rxIntent = s.rxIntent := by
  unfold irPeriodicStep; split <;> simp
@[simp] theorem irPeriodicStep_rxPrev (prov : Byte) (s : State) : (irPeriodicStep prov s).rxPrev = s.rxPrev := by
  unfold irPeriodicStep; split <;> simp
@[simp] theorem irPeriodicStep_rxIdx (prov : Byte) (s : State) : (irPeriodicStep prov s).rxIdx = s.rxIdx := by
  unfold irPeriodicStep; split <;> simp
@[simp] theorem irPeriodicStep_rxCnt (prov : Byte) (s : State) : (irPeriodicStep prov s).rxCnt = s.rxCnt := by
  unfold irPeriodicStep; split <;> simp
@[simp] theorem irPeriodicStep_rxShift (prov : Byte) (s : State) : (irPeriodicStep prov s).rxShift = s.rxShift := by
  unfold irPeriodicStep; split <;> simp
@[simp] theorem irPeriodicStep_rxData (prov : Byte) (s : State) : (irPeriodicStep prov s).rxData = s.rxData := by
  unfold irPeriodicStep; split <;> simp
@[simp] theorem irPeriodicStep_rxhReg (prov : Byte) (s : State) : (irPeriodicStep prov s).rxhReg = s.rxhReg := by
  unfold irPeriodicStep; split <;> simp
@[simp] theorem irPeriodicStep_txpReg (prov : Byte) (s : State) : (irPeriodicStep prov s).txpReg = s.txpReg := by
  unfold irPeriodicStep; split <;> simp
@[simp] theorem irPeriodicStep_evFast (prov : Byte) (s : State) : (irPeriodicStep prov s).evFast = s.evFast := by
  unfold irPeriodicStep; split <;> simp
@[simp] theorem irPeriodicStep_evSlow (prov : Byte) (s : State) : (irPeriodicStep prov s).evSlow = s.evSlow := by
  unfold irPeriodicStep; split <;> simp
@[simp] theorem irPeriodicStep_irqFast (prov : Byte) (s : State) : (irPeriodicStep prov s).irqFast = s.irqFast := by
  unfold irPeriodicStep; split <;> simp
@[simp] theorem irPeriodicStep_irqSlow (prov : Byte) (s : State) : (irPeriodicStep prov s).irqSlow = s.irqSlow := by
  unfold irPeriodicStep; split <;> simp
@[simp] theorem irPeriodicStep_irqRx (prov : Byte) (s : State) : (irPeriodicStep prov s).irqRx = s.irqRx := by
  unfold irPeriodicStep; split <;> simp
@[simp] theorem irPeriodicStep_txDone (prov : Byte) (s : State) : (irPeriodicStep prov s).txDone = s.txDone := by
  unfold irPeriodicStep; split <;> simp
@[simp] theorem irPeriodicStep_cmdFault (prov : Byte) (s : State) : (irPeriodicStep prov s).cmdFault = s.cmdFault := by
  unfold irPeriodicStep; split <;> simp
@[simp] theorem irPeriodicStep_cfg (prov : Byte) (s : State) : (irPeriodicStep prov s).cfg = s.cfg := by
  unfold irPeriodicStep; split <;> simp
@[simp] theorem irPeriodicStep_inputs (prov : Byte) (s : State) : (irPeriodicStep prov s).inputs = s.inputs := by
  unfold irPeriodicStep; split <;> simp
@[simp] theorem irPeriodicStep_cycle (prov : Byte) (s : State) : (irPeriodicStep prov s).cycle = s.cycle := by
  unfold irPeriodicStep; split <;> simp

@[simp] theorem rxComplete_tickEn (s : State) : (rxComplete s).tickEn = s.tickEn := by unfold rxComplete; split <;> rfl
@[simp] theorem rxComplete_preCnt (s : State) : (rxComplete s).preCnt = s.preCnt := by unfold rxComplete; split <;> rfl
@[simp] theorem rxComplete_baseCnt (s : State) : (rxComplete s).baseCnt = s.baseCnt := by unfold rxComplete; split <;> rfl
@[simp] theorem rxComplete_slowCnt (s : State) : (rxComplete s).slowCnt = s.slowCnt := by unfold rxComplete; split <;> rfl
@[simp] theorem rxComplete_fastSlot (s : State) : (rxComplete s).fastSlot = s.fastSlot := by unfold rxComplete; split <;> rfl
@[simp] theorem rxComplete_slowSlot (s : State) : (rxComplete s).slowSlot = s.slowSlot := by unfold rxComplete; split <;> rfl
@[simp] theorem rxComplete_lightEn (s : State) : (rxComplete s).lightEn = s.lightEn := by unfold rxComplete; split <;> rfl
@[simp] theorem rxComplete_mask (s : State) : (rxComplete s).mask = s.mask := by unfold rxComplete; split <;> rfl
@[simp] theorem rxComplete_brightness (s : State) : (rxComplete s).brightness = s.brightness := by unfold rxComplete; split <;> rfl
@[simp] theorem rxComplete_pwmCnt (s : State) : (rxComplete s).pwmCnt = s.pwmCnt := by unfold rxComplete; split <;> rfl
@[simp] theorem rxComplete_gate (s : State) : (rxComplete s).gate = s.gate := by unfold rxComplete; split <;> rfl
@[simp] theorem rxComplete_irEn (s : State) : (rxComplete s).irEn = s.irEn := by unfold rxComplete; split <;> rfl
@[simp] theorem rxComplete_carCnt (s : State) : (rxComplete s).carCnt = s.carCnt := by unfold rxComplete; split <;> rfl
@[simp] theorem rxComplete_carrier (s : State) : (rxComplete s).carrier = s.carrier := by unfold rxComplete; split <;> rfl
@[simp] theorem rxComplete_txBusy (s : State) : (rxComplete s).txBusy = s.txBusy := by unfold rxComplete; split <;> rfl
@[simp] theorem rxComplete_txData (s : State) : (rxComplete s).txData = s.txData := by unfold rxComplete; split <;> rfl
@[simp] theorem rxComplete_txIdx (s : State) : (rxComplete s).txIdx = s.txIdx := by unfold rxComplete; split <;> rfl
@[simp] theorem rxComplete_txCnt (s : State) : (rxComplete s).txCnt = s.txCnt := by unfold rxComplete; split <;> rfl
@[simp] theorem rxComplete_rxIntent (s : State) : (rxComplete s).rxIntent = s.rxIntent := by unfold rxComplete; split <;> rfl
@[simp] theorem rxComplete_rxHwEn (s : State) : (rxComplete s).rxHwEn = s.rxHwEn := by unfold rxComplete; split <;> rfl
@[simp] theorem rxComplete_rxPrev (s : State) : (rxComplete s).rxPrev = s.rxPrev := by unfold rxComplete; split <;> rfl
@[simp] theorem rxComplete_rxShift (s : State) : (rxComplete s).rxShift = s.rxShift := by unfold rxComplete; split <;> rfl
@[simp] theorem rxComplete_rxhReg (s : State) : (rxComplete s).rxhReg = s.rxhReg := by unfold rxComplete; split <;> rfl
@[simp] theorem rxComplete_txpReg (s : State) : (rxComplete s).txpReg = s.txpReg := by unfold rxComplete; split <;> rfl
@[simp] theorem rxComplete_evFast (s : State) : (rxComplete s).evFast = s.evFast := by unfold rxComplete; split <;> rfl
@[simp] theorem rxComplete_evSlow (s : State) : (rxComplete s).evSlow = s.evSlow := by unfold rxComplete; split <;> rfl
@[simp] theorem rxComplete_irqFast (s : State) : (rxComplete s).irqFast = s.irqFast := by unfold rxComplete; split <;> rfl
@[simp] theorem rxComplete_irqSlow (s : State) : (rxComplete s).irqSlow = s.irqSlow := by unfold rxComplete; split <;> rfl
@[simp] theorem rxComplete_provTake (s : State) : (rxComplete s).provTake = s.provTake := by unfold rxComplete; split <;> rfl
@[simp] theorem rxComplete_txDone (s : State) : (rxComplete s).txDone = s.txDone := by unfold rxComplete; split <;> rfl
@[simp] theorem rxComplete_cmdFault (s : State) : (rxComplete s).cmdFault = s.cmdFault := by unfold rxComplete; split <;> rfl
@[simp] theorem rxComplete_cfg (s : State) : (rxComplete s).cfg = s.cfg := by unfold rxComplete; split <;> rfl
@[simp] theorem rxComplete_inputs (s : State) : (rxComplete s).inputs = s.inputs := by unfold rxComplete; split <;> rfl
@[simp] theorem rxComplete_cycle (s : State) : (rxComplete s).cycle = s.cycle := by unfold rxComplete; split <;> rfl

@[simp] theorem rxCount_tickEn (s : State) : (rxCount s).tickEn = s.tickEn := by unfold rxCount; split <;> rfl
@[simp] theorem rxCount_preCnt (s : State) : (rxCount s).preCnt = s.preCnt := by unfold rxCount; split <;> rfl
@[simp] theorem rxCount_baseCnt (s : State) : (rxCount s).baseCnt = s.baseCnt := by unfold rxCount; split <;> rfl
@[simp] theorem rxCount_slowCnt (s : State) : (rxCount s).slowCnt = s.slowCnt := by unfold rxCount; split <;> rfl
@[simp] theorem rxCount_fastSlot (s : State) : (rxCount s).fastSlot = s.fastSlot := by unfold rxCount; split <;> rfl
@[simp] theorem rxCount_slowSlot (s : State) : (rxCount s).slowSlot = s.slowSlot := by unfold rxCount; split <;> rfl
@[simp] theorem rxCount_lightEn (s : State) : (rxCount s).lightEn = s.lightEn := by unfold rxCount; split <;> rfl
@[simp] theorem rxCount_mask (s : State) : (rxCount s).mask = s.mask := by unfold rxCount; split <;> rfl
@[simp] theorem rxCount_brightness (s : State) : (rxCount s).brightness = s.brightness := by unfold rxCount; split <;> rfl
@[simp] theorem rxCount_pwmCnt (s : State) : (rxCount s).pwmCnt = s.pwmCnt := by unfold rxCount; split <;> rfl
@[simp] theorem rxCount_gate (s : State) : (rxCount s).gate = s.gate := by unfold rxCount; split <;> rfl
@[simp] theorem rxCount_irEn (s : State) : (rxCount s).irEn = s.irEn := by unfold rxCount; split <;> rfl
@[simp] theorem rxCount_carCnt (s : State) : (rxCount s).carCnt = s.carCnt := by unfold rxCount; split <;> rfl
@[simp] theorem rxCount_carrier (s : State) : (rxCount s).carrier = s.carrier := by unfold rxCount; split <;> rfl
@[simp] theorem rxCount_txBusy (s : State) : (rxCount s).txBusy = s.txBusy := by unfold rxCount; split <;> rfl
@[simp] theorem rxCount_txData (s : State) : (rxCount s).txData = s.txData := by unfold rxCount; split <;> rfl
@[simp] theorem rxCount_txIdx (s : State) : (rxCount s).txIdx = s.txIdx := by unfold rxCount; split <;> rfl
@[simp] theorem rxCount_txCnt (s : State) : (rxCount s).txCnt = s.txCnt := by unfold rxCount; split <;> rfl
@[simp] theorem rxCount_rxIntent (s : State) : (rxCount s).rxIntent = s.rxIntent := by unfold rxCount; split <;> rfl
@[simp] theorem rxCount_rxHwEn (s : State) : (rxCount s).rxHwEn = s.rxHwEn := by unfold rxCount; split <;> rfl
@[simp] theorem rxCount_rxPrev (s : State) : (rxCount s).rxPrev = s.rxPrev := by unfold rxCount; split <;> rfl
@[simp] theorem rxCount_rxBusy (s : State) : (rxCount s).rxBusy = s.rxBusy := by unfold rxCount; split <;> rfl
@[simp] theorem rxCount_rxShift (s : State) : (rxCount s).rxShift = s.rxShift := by unfold rxCount; split <;> rfl
@[simp] theorem rxCount_rxData (s : State) : (rxCount s).rxData = s.rxData := by unfold rxCount; split <;> rfl
@[simp] theorem rxCount_rxhReg (s : State) : (rxCount s).rxhReg = s.rxhReg := by unfold rxCount; split <;> rfl
@[simp] theorem rxCount_txpReg (s : State) : (rxCount s).txpReg = s.txpReg := by unfold rxCount; split <;> rfl
@[simp] theorem rxCount_evFast (s : State) : (rxCount s).evFast = s.evFast := by unfold rxCount; split <;> rfl
@[simp] theorem rxCount_evSlow (s : State) : (rxCount s).evSlow = s.evSlow := by unfold rxCount; split <;> rfl
@[simp] theorem rxCount_irqFast (s : State) : (rxCount s).irqFast = s.irqFast := by unfold rxCount; split <;> rfl
@[simp] theorem rxCount_irqSlow (s : State) : (rxCount s).irqSlow = s.irqSlow := by unfold rxCount; split <;> rfl
@[simp] theorem rxCount_irqRx (s : State) : (rxCount s).irqRx = s.irqRx := by unfold rxCount; split <;> rfl
@[simp] theorem rxCount_provTake (s : State) : (rxCount s).provTake = s.provTake := by unfold rxCount; split <;> rfl
@[simp] theorem rxCount_txDone (s : State) : (rxCount s).txDone = s.txDone := by unfold rxCount; split <;> rfl
@[simp] theorem rxCount_cmdFault (s : State) : (rxCount s).cmdFault = s.cmdFault := by unfold rxCount; split <;> rfl
@[simp] theorem rxCount_cfg (s : State) : (rxCount s).cfg = s.cfg := by unfold rxCount; split <;> rfl
@[simp] theorem rxCount_inputs (s : State) : (rxCount s).inputs = s.inputs := by unfold rxCount; split <;> rfl
@[simp] theorem rxCount_cycle (s : State) : (rxCount s).cycle = s.cycle := by unfold rxCount; split <;> rfl

@[simp] theorem rxStore_tickEn (line : Bool) (s : State) : (rxStore line s).tickEn = s.tickEn := by unfold rxStore; split <;> rfl
@[simp] theorem rxStore_preCnt (line : Bool) (s : State) : (rxStore line s).preCnt = s.preCnt := by unfold rxStore; split <;> rfl
@[simp] theorem rxStore_baseCnt (line : Bool) (s : State) : (rxStore line s).baseCnt = s.baseCnt := by unfold rxStore; split <;> rfl
@[simp] theorem rxStore_slowCnt (line : Bool) (s : State) : (rxStore line s).slowCnt = s.slowCnt := by unfold rxStore; split <;> rfl
@[simp] theorem rxStore_fastSlot (line : Bool) (s : State) : (rxStore line s).fastSlot = s.fastSlot := by unfold rxStore; split <;> rfl
@[simp] theorem rxStore_slowSlot (line : Bool) (s : State) : (rxStore line s).slowSlot = s.slowSlot := by unfold rxStore; split <;> rfl
@[simp] theorem rxStore_lightEn (line : Bool) (s : State) : (rxStore line s).lightEn = s.lightEn := by unfold rxStore; split <;> rfl
@[simp] theorem rxStore_mask (line : Bool) (s : State) : (rxStore line s).mask = s.mask := by unfold rxStore; split <;> rfl
@[simp] theorem rxStore_brightness (line : Bool) (s : State) : (rxStore line s).brightness = s.brightness := by unfold rxStore; split <;> rfl
@[simp] theorem rxStore_pwmCnt (line : Bool) (s : State) : (rxStore line s).pwmCnt = s.pwmCnt := by unfold rxStore; split <;> rfl
@[simp] theorem rxStore_gate (line : Bool) (s : State) : (rxStore line s).gate = s.gate := by unfold rxStore; split <;> rfl
@[simp] theorem rxStore_irEn (line : Bool) (s : State) : (rxStore line s).irEn = s.irEn := by unfold rxStore; split <;> rfl
@[simp] theorem rxStore_carCnt (line : Bool) (s : State) : (rxStore line s).carCnt = s.carCnt := by unfold rxStore; split <;> rfl
@[simp] theorem rxStore_carrier (line : Bool) (s : State) : (rxStore line s).carrier = s.carrier := by unfold rxStore; split <;> rfl
@[simp] theorem rxStore_txBusy (line : Bool) (s : State) : (rxStore line s).txBusy = s.txBusy := by unfold rxStore; split <;> rfl
@[simp] theorem rxStore_txData (line : Bool) (s : State) : (rxStore line s).txData = s.txData := by unfold rxStore; split <;> rfl
@[simp] theorem rxStore_txIdx (line : Bool) (s : State) : (rxStore line s).txIdx = s.txIdx := by unfold rxStore; split <;> rfl
@[simp] theorem rxStore_txCnt (line : Bool) (s : State) : (rxStore line s).txCnt = s.txCnt := by unfold rxStore; split <;> rfl
@[simp] theorem rxStore_rxIntent (line : Bool) (s : State) : (rxStore line s).rxIntent = s.rxIntent := by unfold rxStore; split <;> rfl
@[simp] theorem rxStore_rxHwEn (line : Bool) (s : State) : (rxStore line s).rxHwEn = s.rxHwEn := by unfold rxStore; split <;> rfl
@[simp] theorem rxStore_rxPrev (line : Bool) (s : State) : (rxStore line s).rxPrev = s.rxPrev := by unfold rxStore; split <;> rfl
@[simp] theorem rxStore_rxBusy (line : Bool) (s : State) : (rxStore line s).rxBusy = s.rxBusy := by unfold rxStore; split <;> rfl
@[simp] theorem rxStore_rxIdx (line : Bool) (s : State) : (rxStore line s).rxIdx = s.rxIdx := by unfold rxStore; split <;> rfl
@[simp] theorem rxStore_rxCnt (line : Bool) (s : State) : (rxStore line s).rxCnt = s.rxCnt := by unfold rxStore; split <;> rfl
@[simp] theorem rxStore_rxData (line : Bool) (s : State) : (rxStore line s).rxData = s.rxData := by unfold rxStore; split <;> rfl
@[simp] theorem rxStore_rxhReg (line : Bool) (s : State) : (rxStore line s).rxhReg = s.rxhReg := by unfold rxStore; split <;> rfl
@[simp] theorem rxStore_txpReg (line : Bool) (s : State) : (rxStore line s).txpReg = s.txpReg := by unfold rxStore; split <;> rfl
@[simp] theorem rxStore_evFast (line : Bool) (s : State) : (rxStore line s).evFast = s.evFast := by unfold rxStore; split <;> rfl
@[simp] theorem rxStore_evSlow (line : Bool) (s : State) : (rxStore line s).evSlow = s.evSlow := by unfold rxStore; split <;> rfl
@[simp] theorem rxStore_irqFast (line : Bool) (s : State) : (rxStore line s).irqFast = s.irqFast := by unfold rxStore; split <;> rfl
@[simp] theorem rxStore_irqSlow (line : Bool) (s : State) : (rxStore line s).irqSlow = s.irqSlow := by unfold rxStore; split <;> rfl
@[simp] theorem rxStore_irqRx (line : Bool) (s : State) : (rxStore line s).irqRx = s.irqRx := by unfold rxStore; split <;> rfl
@[simp] theorem rxStore_provTake (line : Bool) (s : State) : (rxStore line s).provTake = s.provTake := by unfold rxStore; split <;> rfl
@[simp] theorem rxStore_txDone (line : Bool) (s : State) : (rxStore line s).txDone = s.txDone := by unfold rxStore; split <;> rfl
@[simp] theorem rxStore_cmdFault (line : Bool) (s : State) : (rxStore line s).cmdFault = s.cmdFault := by unfold rxStore; split <;> rfl
@[simp] theorem rxStore_cfg (line : Bool) (s : State) : (rxStore line s).cfg = s.cfg := by unfold rxStore; split <;> rfl
@[simp] theorem rxStore_inputs (line : Bool) (s : State) : (rxStore line s).inputs = s.inputs := by unfold rxStore; split <;> rfl
@[simp] theorem rxStore_cycle (line : Bool) (s : State) : (rxStore line s).cycle = s.cycle := by unfold rxStore; split <;> rfl

@[simp] theorem rxSample_tickEn (line : Bool) (s : State) : (rxSample line s).tickEn = s.tickEn := by unfold rxSample; split_ifs <;> simp
@[simp] theorem rxSample_preCnt (line : Bool) (s : State) : (rxSample line s).preCnt = s.preCnt := by unfold rxSample; split_ifs <;> simp
@[simp] theorem rxSample_baseCnt (line : Bool) (s : State) : (rxSample line s).baseCnt = s.baseCnt := by unfold rxSample; split_ifs <;> simp
@[simp] theorem rxSample_slowCnt (line : Bool) (s : State) : (rxSample line s).slowCnt = s.slowCnt := by unfold rxSample; split_ifs <;> simp
@[simp] theorem rxSample_fastSlot (line : Bool) (s : State) : (rxSample line s).fastSlot = s.fastSlot := by unfold rxSample; split_ifs <;> simp
@[simp] theorem rxSample_slowSlot (line : Bool) (s : State) : (rxSample line s).slowSlot = s.slowSlot := by unfold rxSample; split_ifs <;> simp
@[simp] theorem rxSample_lightEn (line : Bool) (s : State) : (rxSample line s).lightEn = s.lightEn := by unfold rxSample; split_ifs <;> simp
@[simp] theorem rxSample_mask (line : Bool) (s : State) : (rxSample line s).mask = s.mask := by unfold rxSample; split_ifs <;> simp
@[simp] theorem rxSample_brightness (line : Bool) (s : State) : (rxSample line s).brightness = s.brightness := by unfold rxSample; split_ifs <;> simp
@[simp] theorem rxSample_pwmCnt (line : Bool) (s : State) : (rxSample line s).pwmCnt = s.pwmCnt := by unfold rxSample; split_ifs <;> simp
@[simp] theorem rxSample_gate (line : Bool) (s : State) : (rxSample line s).gate = s.gate := by unfold rxSample; split_ifs <;> simp
@[simp] theorem rxSample_irEn (line : Bool) (s : State) : (rxSample line s).irEn = s.irEn := by unfold rxSample; split_ifs <;> simp
@[simp] theorem rxSample_carCnt (line : Bool) (s : State) : (rxSample line s).carCnt = s.carCnt := by unfold rxSample; split_ifs <;> simp
@[simp] theorem rxSample_carrier (line : Bool) (s : State) : (rxSample line s).carrier = s.carrier := by unfold rxSample; split_ifs <;> simp
@[simp] theorem rxSample_txBusy (line : Bool) (s : State) : (rxSample line s).txBusy = s.txBusy := by unfold rxSample; split_ifs <;> simp
@[simp] theorem rxSample_txData (line : Bool) (s : State) : (rxSample line s).txData = s.txData := by unfold rxSample; split_ifs <;> simp
@[simp] theorem rxSample_txIdx (line : Bool) (s : State) : (rxSample line s).txIdx = s.txIdx := by unfold rxSample; split_ifs <;> simp
@[simp] theorem rxSample_txCnt (line : Bool) (s : State) : (rxSample line s).txCnt = s.txCnt := by unfold rxSample; split_ifs <;> simp
@[simp] theorem rxSample_rxIntent (line : Bool) (s : State) : (rxSample line s).rxIntent = s.rxIntent := by unfold rxSample; split_ifs <;> simp
@[simp] theorem rxSample_rxHwEn (line : Bool) (s : State) : (rxSample line s).rxHwEn = s.rxHwEn := by unfold rxSample; split_ifs <;> simp
@[simp] theorem rxSample_rxPrev (line : Bool) (s : State) : (rxSample line s).rxPrev = s.rxPrev := by unfold rxSample; split_ifs <;> simp
@[simp] theorem rxSample_rxhReg (line : Bool) (s : State) : (rxSample line s).rxhReg = s.rxhReg := by unfold rxSample; split_ifs <;> simp
@[simp] theorem rxSample_txpReg (line : Bool) (s : State) : (rxSample line s).txpReg = s.txpReg := by unfold rxSample; split_ifs <;> simp
@[simp] theorem rxSample_evFast (line : Bool) (s : State) : (rxSample line s).evFast = s.evFast := by unfold rxSample; split_ifs <;> simp
@[simp] theorem rxSample_evSlow (line : Bool) (s : State) : (rxSample line s).evSlow = s.evSlow := by unfold rxSample; split_ifs <;> simp
@[simp] theorem rxSample_irqFast (line : Bool) (s : State) : (rxSample line s).irqFast = s.irqFast := by unfold rxSample; split_ifs <;> simp
@[simp] theorem rxSample_irqSlow (line : Bool) (s : State) : (rxSample line s).irqSlow = s.irqSlow := by unfold rxSample; split_ifs <;> simp
@[simp] theorem rxSample_provTake (line : Bool) (s : State) : (rxSample line s).provTake = s.provTake := by unfold rxSample; split_ifs <;> simp
@[simp] theorem rxSample_txDone (line : Bool) (s : State) : (rxSample line s).txDone = s.txDone := by unfold rxSample; split_ifs <;> simp
@[simp] theorem rxSample_cmdFault (line : Bool) (s : State) : (rxSample line s).cmdFault = s.cmdFault := by unfold rxSample; split_ifs <;> simp
@[simp] theorem rxSample_cfg (line : Bool) (s : State) : (rxSample line s).cfg = s.cfg := by unfold rxSample; split_ifs <;> simp
@[simp] theorem rxSample_inputs (line : Bool) (s : State) : (rxSample line s).inputs = s.inputs := by unfold rxSample; split_ifs <;> simp
@[simp] theorem rxSample_cycle (line : Bool) (s : State) : (rxSample line s).cycle = s.cycle := by unfold rxSample; split_ifs <;> simp

@[simp] theorem rxStart_tickEn (line : Bool) (s : State) : (rxStart line s).tickEn = s.tickEn := by unfold rxStart; split <;> rfl
@[simp] theorem rxStart_preCnt (line : Bool) (s : State) : (rxStart line s).preCnt = s.preCnt := by unfold rxStart; split <;> rfl
@[simp] theorem rxStart_baseCnt (line : Bool) (s : State) : (rxStart line s).baseCnt = s.baseCnt := by unfold rxStart; split <;> rfl
@[simp] theorem rxStart_slowCnt (line : Bool) (s : State) : (rxStart line s).slowCnt = s.slowCnt := by unfold rxStart; split <;> rfl
@[simp] theorem rxStart_fastSlot (line : Bool) (s : State) : (rxStart line s).fastSlot = s.fastSlot := by unfold rxStart; split <;> rfl
@[simp] theorem rxStart_slowSlot (line : Bool) (s : State) : (rxStart line s).slowSlot = s.slowSlot := by unfold rxStart; split <;> rfl
@[simp] theorem rxStart_lightEn (line : Bool) (s : State) : (rxStart line s).lightEn = s.lightEn := by unfold rxStart; split <;> rfl
@[simp] theorem rxStart_mask (line : Bool) (s : State) : (rxStart line s).mask = s.mask := by unfold rxStart; split <;> rfl
@[simp] theorem rxStart_brightness (line : Bool) (s : State) : (rxStart line s).brightness = s.brightness := by unfold rxStart; split <;> rfl
@[simp] theorem rxStart_pwmCnt (line : Bool) (s : State) : (rxStart line s).pwmCnt = s.pwmCnt := by unfold rxStart; split <;> rfl
@[simp] theorem rxStart_gate (line : Bool) (s : State) : (rxStart line s).gate = s.gate := by unfold rxStart; split <;> rfl
@[simp] theorem rxStart_irEn (line : Bool) (s : State) : (rxStart line s).irEn = s.irEn := by unfold rxStart; split <;> rfl
@[simp] theorem rxStart_carCnt (line : Bool) (s : State) : (rxStart line s).carCnt = s.carCnt := by unfold rxStart; split <;> rfl
@[simp] theorem rxStart_carrier (line : Bool) (s : State) : (rxStart line s).carrier = s.carrier := by unfold rxStart; split <;> rfl
@[simp] theorem rxStart_txBusy (line : Bool) (s : State) : (rxStart line s).txBusy = s.txBusy := by unfold rxStart; split <;> rfl
@[simp] theorem rxStart_txData (line : Bool) (s : State) : (rxStart line s).txData = s.txData := by unfold rxStart; split <;> rfl
@[simp] theorem rxStart_txIdx (line : Bool) (s : State) : (rxStart line s).txIdx = s.txIdx := by unfold rxStart; split <;> rfl
@[simp] theorem rxStart_txCnt (line : Bool) (s : State) : (rxStart line s).txCnt = s.txCnt := by unfold rxStart; split <;> rfl
@[simp] theorem rxStart_rxIntent (line : Bool) (s : State) : (rxStart line s).rxIntent = s.rxIntent := by unfold rxStart; split <;> rfl
@[simp] theorem rxStart_rxHwEn (line : Bool) (s : State) : (rxStart line s).rxHwEn = s.rxHwEn := by unfold rxStart; split <;> rfl
@[simp] theorem rxStart_rxPrev (line : Bool) (s : State) : (rxStart line s).rxPrev = s.rxPrev := by unfold rxStart; split <;> rfl
@[simp] theorem rxStart_rxShift (line : Bool) (s : State) : (rxStart line s).rxShift = s.rxShift := by unfold rxStart; split <;> rfl
@[simp] theorem rxStart_rxData (line : Bool) (s : State) : (rxStart line s).rxData = s.rxData := by unfold rxStart; split <;> rfl
@[simp] theorem rxStart_rxhReg (line : Bool) (s : State) : (rxStart line s).rxhReg = s.rxhReg := by unfold rxStart; split <;> rfl
@[simp] theorem rxStart_txpReg (line : Bool) (s : State) : (rxStart line s).txpReg = s.txpReg := by unfold rxStart; split <;> rfl
@[simp] theorem rxStart_evFast (line : Bool) (s : State) : (rxStart line s).evFast = s.evFast := by unfold rxStart; split <;> rfl
@[simp] theorem rxStart_evSlow (line : Bool) (s : State) : (rxStart line s).evSlow = s.evSlow := by unfold rxStart; split <;> rfl
@[simp] theorem rxStart_irqFast (line : Bool) (s : State) : (rxStart line s).irqFast = s.irqFast := by unfold rxStart; split <;> rfl
@[simp] theorem rxStart_irqSlow (line : Bool) (s : State) : (rxStart line s).irqSlow = s.irqSlow := by unfold rxStart; split <;> rfl
@[simp] theorem rxStart_irqRx (line : Bool) (s : State) : (rxStart line s).irqRx = s.irqRx := by unfold rxStart; split <;> rfl
@[simp] theorem rxStart_provTake (line : Bool) (s : State) : (rxStart line s).provTake = s.provTake := by unfold rxStart; split <;> rfl
@[simp] theorem rxStart_txDone (line : Bool) (s : State) : (rxStart line s).txDone = s.txDone := by unfold rxStart; split <;> rfl
@[simp] theorem rxStart_cmdFault (line : Bool) (s : State) : (rxStart line s).cmdFault = s.cmdFault := by unfold rxStart; split <;> rfl
@[simp] theorem rxStart_cfg (line : Bool) (s : State) : (rxStart line s).cfg = s.cfg := by unfold rxStart; split <;> rfl
@[simp] theorem rxStart_inputs (line : Bool) (s : State) : (rxStart line s).inputs = s.inputs := by unfold rxStart; split <;> rfl
@[simp] theorem rxStart_cycle (line : Bool) (s : State) : (rxStart line s).cycle = s.cycle := by unfold rxStart; split <;> rfl

@[simp] theorem rxEngine_tickEn (line : Bool) (s : State) : (rxEngine line s).tickEn = s.tickEn := by unfold rxEngine; split_ifs <;> simp
@[simp] theorem rxEngine_preCnt (line : Bool) (s : State) : (rxEngine line s).preCnt = s.preCnt := by unfold rxEngine; split_ifs <;> simp
@[simp] theorem rxEngine_baseCnt (line : Bool) (s : State) : (rxEngine line s).baseCnt = s.baseCnt := by unfold rxEngine; split_ifs <;> simp
@[simp] theorem rxEngine_slowCnt (line : Bool) (s : State) : (rxEngine line s).slowCnt = s.slowCnt := by unfold rxEngine; split_ifs <;> simp
@[simp] theorem rxEngine_fastSlot (line : Bool) (s : State) : (rxEngine line s).fastSlot = s.fastSlot := by unfold rxEngine; split_ifs <;> simp
@[simp] theorem rxEngine_slowSlot (line : Bool) (s : State) : (rxEngine line s).slowSlot = s.slowSlot := by unfold rxEngine; split_ifs <;> simp
@[simp] theorem rxEngine_lightEn (line : Bool) (s : State) : (rxEngine line s).lightEn = s.lightEn := by unfold rxEngine; split_ifs <;> simp
@[simp] theorem rxEngine_mask (line : Bool) (s : State) : (rxEngine line s).mask = s.mask := by unfold rxEngine; split_ifs <;> simp
@[simp] theorem rxEngine_brightness (line : Bool) (s : State) : (rxEngine line s).brightness = s.brightness := by unfold rxEngine; split_ifs <;> simp
@[simp] theorem rxEngine_pwmCnt (line : Bool) (s : State) : (rxEngine line s).pwmCnt = s.pwmCnt := by unfold rxEngine; split_ifs <;> simp
@[simp] theorem rxEngine_gate (line : Bool) (s : State) : (rxEngine line s).gate = s.gate := by unfold rxEngine; split_ifs <;> simp
@[simp] theorem rxEngine_irEn (line : Bool) (s : State) : (rxEngine line s).irEn = s.irEn := by unfold rxEngine; split_ifs <;> simp
@[simp] theorem rxEngine_carCnt (line : Bool) (s : State) : (rxEngine line s).carCnt = s.carCnt := by unfold rxEngine; split_ifs <;> simp
@[simp] theorem rxEngine_carrier (line : Bool) (s : State) : (rxEngine line s).carrier = s.carrier := by unfold rxEngine; split_ifs <;> simp
@[simp] theorem rxEngine_txBusy (line : Bool) (s : State) : (rxEngine line s).txBusy = s.txBusy := by unfold rxEngine; split_ifs <;> simp
@[simp] theorem rxEngine_txData (line : Bool) (s : State) : (rxEngine line s).txData = s.txData := by unfold rxEngine; split_ifs <;> simp
@[simp] theorem rxEngine_txIdx (line : Bool) (s : State) : (rxEngine line s).txIdx = s.txIdx := by unfold rxEngine; split_ifs <;> simp
@[simp] theorem rxEngine_txCnt (line : Bool) (s : State) : (rxEngine line s).txCnt = s.txCnt := by unfold rxEngine; split_ifs <;> simp
@[simp] theorem rxEngine_rxIntent (line : Bool) (s : State) : (rxEngine line s).rxIntent = s.rxIntent := by unfold rxEngine; split_ifs <;> simp
@[simp] theorem rxEngine_rxHwEn (line : Bool) (s : State) : (rxEngine line s).rxHwEn = s.rxHwEn := by unfold rxEngine; split_ifs <;> simp
@[simp] theorem rxEngine_rxPrev (line : Bool) (s : State) : (rxEngine line s).rxPrev = s.rxPrev := by unfold rxEngine; split_ifs <;> simp
@[simp] theorem rxEngine_rxhReg (line : Bool) (s : State) : (rxEngine line s).rxhReg = s.rxhReg := by unfold rxEngine; split_ifs <;> simp
@[simp] theorem rxEngine_txpReg (line : Bool) (s : State) : (rxEngine line s).txpReg = s.txpReg := by unfold rxEngine; split_ifs <;> simp
@[simp] theorem rxEngine_evFast (line : Bool) (s : State) : (rxEngine line s).evFast = s.evFast := by unfold rxEngine; split_ifs <;> simp
@[simp] theorem rxEngine_evSlow (line : Bool) (s : State) : (rxEngine line s).evSlow = s.evSlow := by unfold rxEngine; split_ifs <;> simp
@[simp] theorem rxEngine_irqFast (line : Bool) (s : State) : (rxEngine line s).irqFast = s.irqFast := by unfold rxEngine; split_ifs <;> simp
@[simp] theorem rxEngine_irqSlow (line : Bool) (s : State) : (rxEngine line s).irqSlow = s.irqSlow := by unfold rxEngine; split_ifs <;> simp
@[simp] theorem rxEngine_provTake (line : Bool) (s : State) : (rxEngine line s).provTake = s.provTake := by unfold rxEngine; split_ifs <;> simp
@[simp] theorem rxEngine_txDone (line : Bool) (s : State) : (rxEngine line s).txDone = s.txDone := by unfold rxEngine; split_ifs <;> simp
@[simp] theorem rxEngine_cmdFault (line : Bool) (s : State) : (rxEngine line s).cmdFault = s.cmdFault := by unfold rxEngine; split_ifs <;> simp
@[simp] theorem rxEngine_cfg (line : Bool) (s : State) : (rxEngine line s).cfg = s.cfg := by unfold rxEngine; split_ifs <;> simp
@[simp] theorem rxEngine_inputs (line : Bool) (s : State) : (rxEngine line s).inputs = s.inputs := by unfold rxEngine; split_ifs <;> simp
@[simp] theorem rxEngine_cycle (line : Bool) (s : State) : (rxEngine line s).cycle = s.cycle := by unfold rxEngine; split_ifs <;> simp

@[simp] theorem rxAdvance_tickEn (line : Bool) (s : State) : (rxAdvance line s).tickEn = s.tickEn := by simp [rxAdvance]
@[simp] theorem rxAdvance_preCnt (line : Bool) (s : State) : (rxAdvance line s).preCnt = s.preCnt := by simp [rxAdvance]
@[simp] theorem rxAdvance_baseCnt (line : Bool) (s : State) : (rxAdvance line s).baseCnt = s.baseCnt := by simp [rxAdvance]
@[simp] theorem rxAdvance_slowCnt (line : Bool) (s : State) : (rxAdvance line s).slowCnt = s.slowCnt := by simp [rxAdvance]
@[simp] theorem rxAdvance_fastSlot (line : Bool) (s : State) : (rxAdvance line s).fastSlot = s.fastSlot := by simp [rxAdvance]
@[simp] theorem rxAdvance_slowSlot (line : Bool) (s : State) : (rxAdvance line s).slowSlot = s.slowSlot := by simp [rxAdvance]
@[simp] theorem rxAdvance_lightEn (line : Bool) (s : State) : (rxAdvance line s).lightEn = s.lightEn := by simp [rxAdvance]
@[simp] theorem rxAdvance_mask (line : Bool) (s : State) : (rxAdvance line s).mask = s.mask := by simp [rxAdvance]
@[simp] theorem rxAdvance_brightness (line : Bool) (s : State) : (rxAdvance line s).brightness = s.brightness := by simp [rxAdvance]
@[simp] theorem rxAdvance_pwmCnt (line : Bool) (s : State) : (rxAdvance line s).pwmCnt = s.pwmCnt := by simp [rxAdvance]
@[simp] theorem rxAdvance_gate (line : Bool) (s : State) : (rxAdvance line s).gate = s.gate := by simp [rxAdvance]
@[simp] theorem rxAdvance_irEn (line : Bool) (s : State) : (rxAdvance line s).irEn = s.irEn := by simp [rxAdvance]
@[simp] theorem rxAdvance_carCnt (line : Bool) (s : State) : (rxAdvance line s).carCnt = s.carCnt := by simp [rxAdvance]
@[simp] theorem rxAdvance_carrier (line : Bool) (s : State) : (rxAdvance line s).carrier = s.carrier := by simp [rxAdvance]
@[simp] theorem rxAdvance_txBusy (line : Bool) (s : State) : (rxAdvance line s).txBusy = s.txBusy := by simp [rxAdvance]
@[simp] theorem rxAdvance_txData (line : Bool) (s : State) : (rxAdvance line s).txData = s.txData := by simp [rxAdvance]
@[simp] theorem rxAdvance_txIdx (line : Bool) (s : State) : (rxAdvance line s).txIdx = s.txIdx := by simp [rxAdvance]
@[simp] theorem rxAdvance_txCnt (line : Bool) (s : State) : (rxAdvance line s).txCnt = s.txCnt := by simp [rxAdvance]
@[simp] theorem rxAdvance_rxIntent (line : Bool) (s : State) : (rxAdvance line s).rxIntent = s.rxIntent := by simp [rxAdvance]
@[simp] theorem rxAdvance_rxHwEn (line : Bool) (s : State) : (rxAdvance line s).rxHwEn = s.rxHwEn := by simp [rxAdvance]
@[simp] theorem rxAdvance_rxhReg (line : Bool) (s : State) : (rxAdvance line s).rxhReg = s.rxhReg := by simp [rxAdvance]
@[simp] theorem rxAdvance_txpReg (line : Bool) (s : State) : (rxAdvance line s).txpReg = s.txpReg := by simp [rxAdvance]
@[simp] theorem rxAdvance_evFast (line : Bool) (s : State) : (rxAdvance line s).evFast = s.evFast := by simp [rxAdvance]
@[simp] theorem rxAdvance_evSlow (line : Bool) (s : State) : (rxAdvance line s).evSlow = s.evSlow := by simp [rxAdvance]
@[simp] theorem rxAdvance_irqFast (line : Bool) (s : State) : (rxAdvance line s).irqFast = s.irqFast := by simp [rxAdvance]
@[simp] theorem rxAdvance_irqSlow (line : Bool) (s : State) : (rxAdvance line s).irqSlow = s.irqSlow := by simp [rxAdvance]
@[simp] theorem rxAdvance_provTake (line : Bool) (s : State) : (rxAdvance line s).provTake = s.provTake := by simp [rxAdvance]
@[simp] theorem rxAdvance_txDone (line : Bool) (s : State) : (rxAdvance line s).txDone = s.txDone := by simp [rxAdvance]
@[simp] theorem rxAdvance_cmdFault (line : Bool) (s : State) : (rxAdvance line s).cmdFault = s.cmdFault := by simp [rxAdvance]
@[simp] theorem rxAdvance_cfg (line : Bool) (s : State) : (rxAdvance line s).cfg = s.cfg := by simp [rxAdvance]
@[simp] theorem rxAdvance_inputs (line : Bool) (s : State) : (rxAdvance line s).inputs = s.inputs := by simp [rxAdvance]
@[simp] theorem rxAdvance_cycle (line : Bool) (s : State) : (rxAdvance line s).cycle = s.cycle := by simp [rxAdvance]

@[simp] theorem rxAdvance_rxPrev (line : Bool) (s : State) : (rxAdvance line s).rxPrev = line := rfl

@[simp] theorem carrierAdvance_tickEn (s : State) : (carrierAdvance s).tickEn = s.tickEn := by unfold carrierAdvance; split_ifs <;> rfl
@[simp] theorem carrierAdvance_preCnt (s : State) : (carrierAdvance s).preCnt = s.preCnt := by unfold carrierAdvance; split_ifs <;> rfl
@[simp] theorem carrierAdvance_baseCnt (s : State) : (carrierAdvance s).baseCnt = s.baseCnt := by unfold carrierAdvance; split_ifs <;> rfl
@[simp] theorem carrierAdvance_slowCnt (s : State) : (carrierAdvance s).slowCnt = s.slowCnt := by unfold carrierAdvance; split_ifs <;> rfl
@[simp] theorem carrierAdvance_fastSlot (s : State) : (carrierAdvance s).fastSlot = s.fastSlot := by unfold carrierAdvance; split_ifs <;> rfl
@[simp] theorem carrierAdvance_slowSlot (s : State) : (carrierAdvance s).slowSlot = s.slowSlot := by unfold carrierAdvance; split_ifs <;> rfl
@[simp] theorem carrierAdvance_lightEn (s : State) : (carrierAdvance s).lightEn = s.lightEn := by unfold carrierAdvance; split_ifs <;> rfl
@[simp] theorem carrierAdvance_mask (s : State) : (carrierAdvance s).mask = s.mask := by unfold carrierAdvance; split_ifs <;> rfl
@[simp] theorem carrierAdvance_brightness (s : State) : (carrierAdvance s).brightness = s.brightness := by unfold carrierAdvance; split_ifs <;> rfl
@[simp] theorem carrierAdvance_pwmCnt (s : State) : (carrierAdvance s).pwmCnt = s.pwmCnt := by unfold carrierAdvance; split_ifs <;> rfl
@[simp] theorem carrierAdvance_gate (s : State) : (carrierAdvance s).gate = s.gate := by unfold carrierAdvance; split_ifs <;> rfl
@[simp] theorem carrierAdvance_irEn (s : State) : (carrierAdvance s).irEn = s.irEn := by unfold carrierAdvance; split_ifs <;> rfl
@[simp] theorem carrierAdvance_txBusy (s : State) : (carrierAdvance s).txBusy = s.txBusy := by unfold carrierAdvance; split_ifs <;> rfl
@[simp] theorem carrierAdvance_txData (s : State) : (carrierAdvance s).txData = s.txData := by unfold carrierAdvance; split_ifs <;> rfl
@[simp] theorem carrierAdvance_txIdx (s : State) : (carrierAdvance s).txIdx = s.txIdx := by unfold carrierAdvance; split_ifs <;> rfl
@[simp] theorem carrierAdvance_txCnt (s : State) : (carrierAdvance s).txCnt = s.txCnt := by unfold carrierAdvance; split_ifs <;> rfl
@[simp] theorem carrierAdvance_rxIntent (s : State) : (carrierAdvance s).rxIntent = s.rxIntent := by unfold carrierAdvance; split_ifs <;> rfl
@[simp] theorem carrierAdvance_rxHwEn (s : State) : (carrierAdvance s).rxHwEn = s.rxHwEn := by unfold carrierAdvance; split_ifs <;> rfl
@[simp] theorem carrierAdvance_rxPrev (s : State) : (carrierAdvance s).rxPrev = s.rxPrev := by unfold carrierAdvance; split_ifs <;> rfl
@[simp] theorem carrierAdvance_rxBusy (s : State) : (carrierAdvance s).rxBusy = s.rxBusy := by unfold carrierAdvance; split_ifs <;> rfl
@[simp] theorem carrierAdvance_rxIdx (s : State) : (carrierAdvance s).rxIdx = s.rxIdx := by unfold carrierAdvance; split_ifs <;> rfl
@[simp] theorem carrierAdvance_rxCnt (s : State) : (carrierAdvance s).rxCnt = s.rxCnt := by unfold carrierAdvance; split_ifs <;> rfl
@[simp] theorem carrierAdvance_rxShift (s : State) : (carrierAdvance s).rxShift = s.rxShift := by unfold carrierAdvance; split_ifs <;> rfl
@[simp] theorem carrierAdvance_rxData (s : State) : (carrierAdvance s).rxData = s.rxData := by unfold carrierAdvance; split_ifs <;> rfl
@[simp] theorem carrierAdvance_rxhReg (s : State) : (carrierAdvance s).rxhReg = s.rxhReg := by unfold carrierAdvance; split_ifs <;> rfl
@[simp] theorem carrierAdvance_txpReg (s : State) : (carrierAdvance s).txpReg = s.txpReg := by unfold carrierAdvance; split_ifs <;> rfl
@[simp] theorem carrierAdvance_evFast (s : State) : (carrierAdvance s).evFast = s.evFast := by unfold carrierAdvance; split_ifs <;> rfl
@[simp] theorem carrierAdvance_evSlow (s : State) : (carrierAdvance s).evSlow = s.evSlow := by unfold carrierAdvance; split_ifs <;> rfl
@[simp] theorem carrierAdvance_irqFast (s : State) : (carrierAdvance s).irqFast = s.irqFast := by unfold carrierAdvance; split_ifs <;> rfl
@[simp] theorem carrierAdvance_irqSlow (s : State) : (carrierAdvance s).irqSlow = s.irqSlow := by unfold carrierAdvance; split_ifs <;> rfl
@[simp] theorem carrierAdvance_irqRx (s : State) : (carrierAdvance s).irqRx = s.irqRx := by unfold carrierAdvance; split_ifs <;> rfl
@[simp] theorem carrierAdvance_provTake (s : State) : (carrierAdvance s).provTake = s.provTake := by unfold carrierAdvance; split_ifs <;> rfl
@[simp] theorem carrierAdvance_txDone (s : State) : (carrierAdvance s).txDone = s.txDone := by unfold carrierAdvance; split_ifs <;> rfl
@[simp] theorem carrierAdvance_cmdFault (s : State) : (carrierAdvance s).cmdFault = s.cmdFault := by unfold carrierAdvance; split_ifs <;> rfl
@[simp] theorem carrierAdvance_cfg (s : State) : (carrierAdvance s).cfg = s.cfg := by unfold carrierAdvance; split_ifs <;> rfl
@[simp] theorem carrierAdvance_inputs (s : State) : (carrierAdvance s).inputs = s.inputs := by unfold carrierAdvance; split_ifs <;> rfl
@[simp] theorem carrierAdvance_cycle (s : State) : (carrierAdvance s).cycle = s.cycle := by unfold carrierAdvance; split_ifs <;> rfl

@[simp] theorem pulseIrq_tickEn (which : TickSlot) (s : State) : (pulseIrq which s).tickEn = s.tickEn := by cases which <;> rfl
@[simp] theorem pulseIrq_preCnt (which : TickSlot) (s : State) : (pulseIrq which s).preCnt = s.preCnt := by cases which <;> rfl
@[simp] theorem pulseIrq_baseCnt (which : TickSlot) (s : State) : (pulseIrq which s).baseCnt = s.baseCnt := by cases which <;> rfl
@[simp] theorem pulseIrq_slowCnt (which : TickSlot) (s : State) : (pulseIrq which s).slowCnt = s.slowCnt := by cases which <;> rfl
@[simp] theorem pulseIrq_fastSlot (which : TickSlot) (s : State) : (pulseIrq which s).fastSlot = s.fastSlot := by cases which <;> rfl
@[simp] theorem pulseIrq_slowSlot (which : TickSlot) (s : State) : (pulseIrq which s).slowSlot = s.slowSlot := by cases which <;> rfl
@[simp] theorem pulseIrq_lightEn (which : TickSlot) (s : State) : (pulseIrq which s).lightEn = s.lightEn := by cases which <;> rfl
@[simp] theorem pulseIrq_mask (which : TickSlot) (s : State) : (pulseIrq which s).mask = s.mask := by cases which <;> rfl
@[simp] theorem pulseIrq_brightness (which : TickSlot) (s : State) : (pulseIrq which s).brightness = s.brightness := by cases which <;> rfl
@[simp] theorem pulseIrq_pwmCnt (which : TickSlot) (s : State) : (pulseIrq which s).pwmCnt = s.pwmCnt := by cases which <;> rfl
@[simp] theorem pulseIrq_gate (which : TickSlot) (s : State) : (pulseIrq which s).gate = s.gate := by cases which <;> rfl
@[simp] theorem pulseIrq_irEn (which : TickSlot) (s : State) : (pulseIrq which s).irEn = s.irEn := by cases which <;> rfl
@[simp] theorem pulseIrq_carCnt (which : TickSlot) (s : State) : (pulseIrq which s).carCnt = s.carCnt := by cases which <;> rfl
@[simp] theorem pulseIrq_carrier (which : TickSlot) (s : State) : (pulseIrq which s).carrier = s.carrier := by cases which <;> rfl
@[simp] theorem pulseIrq_txBusy (which : TickSlot) (s : State) : (pulseIrq which s).txBusy = s.txBusy := by cases which <;> rfl
@[simp] theorem pulseIrq_txData (which : TickSlot) (s : State) : (pulseIrq which s).txData = s.txData := by cases which <;> rfl
@[simp] theorem pulseIrq_txIdx (which : TickSlot) (s : State) : (pulseIrq which s).txIdx = s.txIdx := by cases which <;> rfl
@[simp] theorem pulseIrq_txCnt (which : TickSlot) (s : State) : (pulseIrq which s).txCnt = s.txCnt := by cases which <;> rfl
@[simp] theorem pulseIrq_rxIntent (which : TickSlot) (s : State) : (pulseIrq which s).rxIntent = s.rxIntent := by cases which <;> rfl
@[simp] theorem pulseIrq_rxHwEn (which : TickSlot) (s : State) : (pulseIrq which s).rxHwEn = s.rxHwEn := by cases which <;> rfl
@[simp] theorem pulseIrq_rxPrev (which : TickSlot) (s : State) : (pulseIrq which s).rxPrev = s.rxPrev := by cases which <;> rfl
@[simp] theorem pulseIrq_rxBusy (which : TickSlot) (s : State) : (pulseIrq which s).rxBusy = s.rxBusy := by cases which <;> rfl
@[simp] theorem pulseIrq_rxIdx (which : TickSlot) (s : State) : (pulseIrq which s).rxIdx = s.rxIdx := by cases which <;> rfl
@[simp] theorem pulseIrq_rxCnt (which : TickSlot) (s : State) : (pulseIrq which s).rxCnt = s.rxCnt := by cases which <;> rfl
@[simp] theorem pulseIrq_rxShift (which : TickSlot) (s : State) : (pulseIrq which s).rxShift = s.rxShift := by cases which <;> rfl
@[simp] theorem pulseIrq_rxData (which : TickSlot) (s : State) : (pulseIrq which s).rxData = s.rxData := by cases which <;> rfl
@[simp] theorem pulseIrq_rxhReg (which : TickSlot) (s : State) : (pulseIrq which s).rxhReg = s.rxhReg := by cases which <;> rfl
@[simp] theorem pulseIrq_txpReg (which : TickSlot) (s : State) : (pulseIrq which s).txpReg = s.txpReg := by cases which <;> rfl
@[simp] theorem pulseIrq_evFast (which : TickSlot) (s : State) : (pulseIrq which s).evFast = s.evFast := by cases which <;> rfl
@[simp] theorem pulseIrq_evSlow (which : TickSlot) (s : State) : (pulseIrq which s).evSlow = s.evSlow := by cases which <;> rfl
@[simp] theorem pulseIrq_irqRx (which : TickSlot) (s : State) : (pulseIrq which s).irqRx = s.irqRx := by cases which <;> rfl
@[simp] theorem pulseIrq_provTake (which : TickSlot) (s : State) : (pulseIrq which s).provTake = s.provTake := by cases which <;> rfl
@[simp] theorem pulseIrq_txDone (which : TickSlot) (s : State) : (pulseIrq which s).txDone = s.txDone := by cases which <;> rfl
@[simp] theorem pulseIrq_cmdFault (which : TickSlot) (s : State) : (pulseIrq which s).cmdFault = s.cmdFault := by cases which <;> rfl
@[simp] theorem pulseIrq_cfg (which : TickSlot) (s : State) : (pulseIrq which s).cfg = s.cfg := by cases which <;> rfl
@[simp] theorem pulseIrq_inputs (which : TickSlot) (s : State) : (pulseIrq which s).inputs = s.inputs := by cases which <;> rfl
@[simp] theorem pulseIrq_cycle (which : TickSlot) (s : State) : (pulseIrq which s).cycle = s.cycle := by cases which <;> rfl

@[simp] theorem invoke_tickEn (h : HandlerId) (which : TickSlot) (prov : Byte) (s : State) : (invoke h which prov s).tickEn = s.tickEn := by
  cases h <;> simp [invoke]
@[simp] theorem invoke_preCnt (h : HandlerId) (which : TickSlot) (prov : Byte) (s : State) : (invoke h which prov s).preCnt = s.preCnt := by
  cases h <;> simp [invoke]
@[simp] theorem invoke_baseCnt (h : HandlerId) (which : TickSlot) (prov : Byte) (s : State) : (invoke h which prov s).baseCnt = s.baseCnt := by
  cases h <;> simp [invoke]
@[simp] theorem invoke_slowCnt (h : HandlerId) (which : TickSlot) (prov : Byte) (s : State) : (invoke h which prov s).slowCnt = s.slowCnt := by
  cases h <;> simp [invoke]
@[simp] theorem invoke_fastSlot (h : HandlerId) (which : TickSlot) (prov : Byte) (s : State) : (invoke h which prov s).fastSlot = s.fastSlot := by
  cases h <;> simp [invoke]
@[simp] theorem invoke_slowSlot (h : HandlerId) (which : TickSlot) (prov : Byte) (s : State) : (invoke h which prov s).slowSlot = s.slowSlot := by
  cases h <;> simp [invoke]
@[simp] theorem invoke_lightEn (h : HandlerId) (which : TickSlot) (prov : Byte) (s : State) : (invoke h which prov s).lightEn = s.lightEn := by
  cases h <;> simp [invoke]
@[simp] theorem invoke_mask (h : HandlerId) (which : TickSlot) (prov : Byte) (s : State) : (invoke h which prov s).mask = s.mask := by
  cases h <;> simp [invoke]
@[simp] theorem invoke_brightness (h : HandlerId) (which : TickSlot) (prov : Byte) (s : State) : (invoke h which prov s).brightness = s.brightness := by
  cases h <;> simp [invoke]
@[simp] theorem invoke_irEn (h : HandlerId) (which : TickSlot) (prov : Byte) (s : State) : (invoke h which prov s).irEn = s.irEn := by
  cases h <;> simp [invoke]
@[simp] theorem invoke_carCnt (h : HandlerId) (which : TickSlot) (prov : Byte) (s : State) : (invoke h which prov s).carCnt = s.carCnt := by
  cases h <;> simp [invoke]
@[simp] theorem invoke_carrier (h : HandlerId) (which : TickSlot) (prov : Byte) (s : State) : (invoke h which prov s).carrier = s.carrier := by
  cases h <;> simp [invoke]
@[simp] theorem invoke_rxIntent (h : HandlerId) (which : TickSlot) (prov : Byte) (s : State) : (invoke h which prov s).rxIntent = s.rxIntent := by
  cases h <;> simp [invoke]
@[simp] theorem invoke_rxPrev (h : HandlerId) (which : TickSlot) (prov : Byte) (s : State) : (invoke h which prov s).rxPrev = s.rxPrev := by
  cases h <;> simp [invoke]
@[simp] theorem invoke_rxIdx (h : HandlerId) (which : TickSlot) (prov : Byte) (s : State) : (invoke h which prov s).rxIdx = s.rxIdx := by
  cases h <;> simp [invoke]
@[simp] theorem invoke_rxCnt (h : HandlerId) (which : TickSlot) (prov : Byte) (s : State) : (invoke h which prov s).rxCnt = s.rxCnt := by
  cases h <;> simp [invoke]
@[simp] theorem invoke_rxShift (h : HandlerId) (which : TickSlot) (prov : Byte) (s : State) : (invoke h which prov s).rxShift = s.rxShift := by
  cases h <;> simp [invoke]
@[simp] theorem invoke_rxData (h : HandlerId) (which : TickSlot) (prov : Byte) (s : State) : (invoke h which prov s).rxData = s.rxData := by
  cases h <;> simp [invoke]
@[simp] theorem invoke_rxhReg (h : HandlerId) (which : TickSlot) (prov : Byte) (s : State) : (invoke h which prov s).rxhReg = s.rxhReg := by
  cases h <;> simp [invoke]
@[simp] theorem invoke_txpReg (h : HandlerId) (which : TickSlot) (prov : Byte) (s : State) : (invoke h which prov s).txpReg = s.txpReg := by
  cases h <;> simp [invoke]
@[simp] theorem invoke_evFast (h : HandlerId) (which : TickSlot) (prov : Byte) (s : State) : (invoke h which prov s).evFast = s.evFast := by
  cases h <;> simp [invoke]
@[simp] theorem invoke_evSlow (h : HandlerId) (which : TickSlot) (prov : Byte) (s : State) : (invoke h which prov s).evSlow = s.evSlow := by
  cases h <;> simp [invoke]
@[simp] theorem invoke_irqRx (h : HandlerId) (which : TickSlot) (prov : Byte) (s : State) : (invoke h which prov s).irqRx = s.irqRx := by
  cases h <;> simp [invoke]
@[simp] theorem invoke_txDone (h : HandlerId) (which : TickSlot) (prov : Byte) (s : State) : (invoke h which prov s).txDone = s.txDone := by
  cases h <;> simp [invoke]
@[simp] theorem invoke_cmdFault (h : HandlerId) (which : TickSlot) (prov : Byte) (s : State) : (invoke h which prov s).cmdFault = s.cmdFault := by
  cases h <;> simp [invoke]
@[simp] theorem invoke_cfg (h : HandlerId) (which : TickSlot) (prov : Byte) (s : State) : (invoke h which prov s).cfg = s.cfg := by
  cases h <;> simp [invoke]
@[simp] theorem invoke_inputs (h : HandlerId) (which : TickSlot) (prov : Byte) (s : State) : (invoke h which prov s).inputs = s.inputs := by
  cases h <;> simp [invoke]
@[simp] theorem invoke_cycle (h : HandlerId) (which : TickSlot) (prov : Byte) (s : State) : (invoke h which prov s).cycle = s.cycle := by
  cases h <;> simp [invoke]

@[simp] theorem slowTick_tickEn (prov : Byte) (s : State) : (slowTick prov s).tickEn = s.tickEn := by simp [slowTick]
@[simp] theorem slowTick_preCnt (prov : Byte) (s : State) : (slowTick prov s).preCnt = s.preCnt := by simp [slowTick]
@[simp] theorem slowTick_baseCnt (prov : Byte) (s : State) : (slowTick prov s).baseCnt = s.baseCnt := by simp [slowTick]
@[simp] theorem slowTick_slowCnt (prov : Byte) (s : State) : (slowTick prov s).slowCnt = s.slowCnt := by simp [slowTick]
@[simp] theorem slowTick_fastSlot (prov : Byte) (s : State) : (slowTick prov s).fastSlot = s.fastSlot := by simp [slowTick]
@[simp] theorem slowTick_slowSlot (prov : Byte) (s : State) : (slowTick prov s).slowSlot = s.slowSlot := by simp [slowTick]
@[simp] theorem slowTick_lightEn (prov : Byte) (s : State) : (slowTick prov s).lightEn = s.lightEn := by simp [slowTick]
@[simp] theorem slowTick_mask (prov : Byte) (s : State) : (slowTick prov s).mask = s.mask := by simp [slowTick]
@[simp] theorem slowTick_brightness (prov : Byte) (s : State) : (slowTick prov s).brightness = s.brightness := by simp [slowTick]
@[simp] theorem slowTick_irEn (prov : Byte) (s : State) : (slowTick prov s).irEn = s.irEn := by simp [slowTick]
@[simp] theorem slowTick_carCnt (prov : Byte) (s : State) : (slowTick prov s).carCnt = s.carCnt := by simp [slowTick]
@[simp] theorem slowTick_carrier (prov : Byte) (s : State) : (slowTick prov s).carrier = s.carrier := by simp [slowTick]
@[simp] theorem slowTick_rxIntent (prov : Byte) (s : State) : (slowTick prov s).rxIntent = s.rxIntent := by simp [slowTick]
@[simp] theorem slowTick_rxPrev (prov : Byte) (s : State) : (slowTick prov s).rxPrev = s.rxPrev := by simp [slowTick]
@[simp] theorem slowTick_rxIdx (prov : Byte) (s : State) : (slowTick prov s).rxIdx = s.rxIdx := by simp [slowTick]
@[simp] theorem slowTick_rxCnt (prov : Byte) (s : State) : (slowTick prov s).rxCnt = s.rxCnt := by simp [slowTick]
@[simp] theorem slowTick_rxShift (prov : Byte) (s : State) : (slowTick prov s).rxShift = s.rxShift := by simp [slowTick]
@[simp] theorem slowTick_rxData (prov : Byte) (s : State) : (slowTick prov s).rxData = s.rxData := by simp [slowTick]
@[simp] theorem slowTick_rxhReg (prov : Byte) (s : State) : (slowTick prov s).rxhReg = s.rxhReg := by simp [slowTick]
@[simp] theorem slowTick_txpReg (prov : Byte) (s : State) : (slowTick prov s).txpReg = s.txpReg := by simp [slowTick]
@[simp] theorem slowTick_evFast (prov : Byte) (s : State) : (slowTick prov s).evFast = s.evFast := by simp [slowTick]
@[simp] theorem slowTick_irqRx (prov : Byte) (s : State) : (slowTick prov s).irqRx = s.irqRx := by simp [slowTick]
@[simp] theorem slowTick_txDone (prov : Byte) (s : State) : (slowTick prov s).txDone = s.txDone := by simp [slowTick]
@[simp] theorem slowTick_cmdFault (prov : Byte) (s : State) : (slowTick prov s).cmdFault = s.cmdFault := by simp [slowTick]
@[simp] theorem slowTick_cfg (prov : Byte) (s : State) : (slowTick prov s).cfg = s.cfg := by simp [slowTick]
@[simp] theorem slowTick_inputs (prov : Byte) (s : State) : (slowTick prov s).inputs = s.inputs := by simp [slowTick]
@[simp] theorem slowTick_cycle (prov : Byte) (s : State) : (slowTick prov s).cycle = s.cycle := by simp [slowTick]

@[simp] theorem slowTickIfWrapped_tickEn (prov : Byte) (s : State) : (slowTickIfWrapped prov s).tickEn = s.tickEn := by
  unfold slowTickIfWrapped; split <;> simp
@[simp] theorem slowTickIfWrapped_preCnt (prov : Byte) (s : State) : (slowTickIfWrapped prov s).preCnt = s.preCnt := by
  unfold slowTickIfWrapped; split <;> simp
@[simp] theorem slowTickIfWrapped_baseCnt (prov : Byte) (s : State) : (slowTickIfWrapped prov s).baseCnt = s.baseCnt := by
  unfold slowTickIfWrapped; split <;> simp
@[simp] theorem slowTickIfWrapped_slowCnt (prov : Byte) (s : State) : (slowTickIfWrapped prov s).slowCnt = s.slowCnt := by
  unfold slowTickIfWrapped; split <;> simp
@[simp] theorem slowTickIfWrapped_fastSlot (prov : Byte) (s : State) : (slowTickIfWrapped prov s).fastSlot = s.fastSlot := by
  unfold slowTickIfWrapped; split <;> simp
@[simp] theorem slowTickIfWrapped_slowSlot (prov : Byte) (s : State) : (slowTickIfWrapped prov s).slowSlot = s.slowSlot := by
  unfold slowTickIfWrapped; split <;> simp
@[simp] theorem slowTickIfWrapped_lightEn (prov : Byte) (s : State) : (slowTickIfWrapped prov s).lightEn = s.lightEn := by
  unfold slowTickIfWrapped; split <;> simp
@[simp] theorem slowTickIfWrapped_mask (prov : Byte) (s : State) : (slowTickIfWrapped prov s).mask = s.mask := by
  unfold slowTickIfWrapped; split <;> simp
@[simp] theorem slowTickIfWrapped_brightness (prov : Byte) (s : State) : (slowTickIfWrapped prov s).brightness = s.brightness := by
  unfold slowTickIfWrapped; split <;> simp
@[simp] theorem slowTickIfWrapped_irEn (prov : Byte) (s : State) : (slowTickIfWrapped prov s).irEn = s.irEn := by
  unfold slowTickIfWrapped; split <;> simp
@[simp] theorem slowTickIfWrapped_carCnt (prov : Byte) (s : State) : (slowTickIfWrapped prov s).carCnt = s.carCnt := by
  unfold slowTickIfWrapped; split <;> simp
@[simp] theorem slowTickIfWrapped_carrier (prov : Byte) (s : State) : (slowTickIfWrapped prov s).carrier = s.carrier := by
  unfold slowTickIfWrapped; split <;> simp
@[simp] theorem slowTickIfWrapped_rxIntent (prov : Byte) (s : State) : (slowTickIfWrapped prov s).rxIntent = s.rxIntent := by
  unfold slowTickIfWrapped; split <;> simp
@[simp] theorem slowTickIfWrapped_rxPrev (prov : Byte) (s : State) : (slowTickIfWrapped prov s).rxPrev = s.rxPrev := by
  unfold slowTickIfWrapped; split <;> simp
@[simp] theorem slowTickIfWrapped_rxIdx (prov : Byte) (s : State) : (slowTickIfWrapped prov s).rxIdx = s.rxIdx := by
  unfold slowTickIfWrapped; split <;> simp
@[simp] theorem slowTickIfWrapped_rxCnt (prov : Byte) (s : State) : (slowTickIfWrapped prov s).rxCnt = s.rxCnt := by
  unfold slowTickIfWrapped; split <;> simp
@[simp] theorem slowTickIfWrapped_rxShift (prov : Byte) (s : State) : (slowTickIfWrapped prov s).rxShift = s.rxShift := by
  unfold slowTickIfWrapped; split <;> simp
@[simp] theorem slowTickIfWrapped_rxData (prov : Byte) (s : State) : (slowTickIfWrapped prov s).rxData = s.rxData := by
  unfold slowTickIfWrapped; split <;> simp
@[simp] theorem slowTickIfWrapped_rxhReg (prov : Byte) (s : State) : (slowTickIfWrapped prov s).rxhReg = s.rxhReg := by
  unfold slowTickIfWrapped; split <;> simp
@[simp] theorem slowTickIfWrapped_txpReg (prov : Byte) (s : State) : (slowTickIfWrapped prov s).txpReg = s.txpReg := by
  unfold slowTickIfWrapped; split <;> simp
@[simp] theorem slowTickIfWrapped_evFast (prov : Byte) (s : State) : (slowTickIfWrapped prov s).evFast = s.evFast := by
  unfold slowTickIfWrapped; split <;> simp
@[simp] theorem slowTickIfWrapped_irqRx (prov : Byte) (s : State) : (slowTickIfWrapped prov s).irqRx = s.irqRx := by
  unfold slowTickIfWrapped; split <;> simp
@[simp] theorem slowTickIfWrapped_txDone (prov : Byte) (s : State) : (slowTickIfWrapped prov s).txDone = s.txDone := by
  unfold slowTickIfWrapped; split <;> simp
@[simp] theorem slowTickIfWrapped_cmdFault (prov : Byte) (s : State) : (slowTickIfWrapped prov s).cmdFault = s.cmdFault := by
  unfold slowTickIfWrapped; split <;> simp
@[simp] theorem slowTickIfWrapped_cfg (prov : Byte) (s : State) : (slowTickIfWrapped prov s).cfg = s.cfg := by
  unfold slowTickIfWrapped; split <;> simp
@[simp] theorem slowTickIfWrapped_inputs (prov : Byte) (s : State) : (slowTickIfWrapped prov s).inputs = s.inputs := by
  unfold slowTickIfWrapped; split <;> simp
@[simp] theorem slowTickIfWrapped_cycle (prov : Byte) (s : State) : (slowTickIfWrapped prov s).cycle = s.cycle := by
  unfold slowTickIfWrapped; split <;> simp

@[simp] theorem fastTick_tickEn (prov : Byte) (s : State) : (fastTick prov s).tickEn = s.tickEn := by simp [fastTick]
@[simp] theorem fastTick_preCnt (prov : Byte) (s : State) : (fastTick prov s).preCnt = s.preCnt := by simp [fastTick]
@[simp] theorem fastTick_baseCnt (prov : Byte) (s : State) : (fastTick prov s).baseCnt = s.baseCnt := by simp [fastTick]
@[simp] theorem fastTick_fastSlot (prov : Byte) (s : State) : (fastTick prov s).fastSlot = s.fastSlot := by simp [fastTick]
@[simp] theorem fastTick_slowSlot (prov : Byte) (s : State) : (fastTick prov s).slowSlot = s.slowSlot := by simp [fastTick]
@[simp] theorem fastTick_lightEn (prov : Byte) (s : State) : (fastTick prov s).lightEn = s.lightEn := by simp [fastTick]
@[simp] theorem fastTick_mask (prov : Byte) (s : State) : (fastTick prov s).mask = s.mask := by simp [fastTick]
@[simp] theorem fastTick_brightness (prov : Byte) (s : State) : (fastTick prov s).brightness = s.brightness := by simp [fastTick]
@[simp] theorem fastTick_irEn (prov : Byte) (s : State) : (fastTick prov s).irEn = s.irEn := by simp [fastTick]
@[simp] theorem fastTick_carCnt (prov : Byte) (s : State) : (fastTick prov s).carCnt = s.carCnt := by simp [fastTick]
@[simp] theorem fastTick_carrier (prov : Byte) (s : State) : (fastTick prov s).carrier = s.carrier := by simp [fastTick]
@[simp] theorem fastTick_rxIntent (prov : Byte) (s : State) : (fastTick prov s).rxIntent = s.rxIntent := by simp [fastTick]
@[simp] theorem fastTick_rxPrev (prov : Byte) (s : State) : (fastTick prov s).rxPrev = s.rxPrev := by simp [fastTick]
@[simp] theorem fastTick_rxIdx (prov : Byte) (s : State) : (fastTick prov s).rxIdx = s.rxIdx := by simp [fastTick]
@[simp] theorem fastTick_rxCnt (prov : Byte) (s : State) : (fastTick prov s).rxCnt = s.rxCnt := by simp [fastTick]
@[simp] theorem fastTick_rxShift (prov : Byte) (s : State) : (fastTick prov s).rxShift = s.rxShift := by simp [fastTick]
@[simp] theorem fastTick_rxData (prov : Byte) (s : State) : (fastTick prov s).rxData = s.rxData := by simp [fastTick]
@[simp] theorem fastTick_rxhReg (prov : Byte) (s : State) : (fastTick prov s).rxhReg = s.rxhReg := by simp [fastTick]
@[simp] theorem fastTick_txpReg (prov : Byte) (s : State) : (fastTick prov s).txpReg = s.txpReg := by simp [fastTick]
@[simp] theorem fastTick_irqRx (prov : Byte) (s : State) : (fastTick prov s).irqRx = s.irqRx := by simp [fastTick]
@[simp] theorem fastTick_txDone (prov : Byte) (s : State) : (fastTick prov s).txDone = s.txDone := by simp [fastTick]
@[simp] theorem fastTick_cmdFault (prov : Byte) (s : State) : (fastTick prov s).cmdFault = s.cmdFault := by simp [fastTick]
@[simp] theorem fastTick_cfg (prov : Byte) (s : State) : (fastTick prov s).cfg = s.cfg := by simp [fastTick]
@[simp] theorem fastTick_inputs (prov : Byte) (s : State) : (fastTick prov s).inputs = s.inputs := by simp [fastTick]
@[simp] theorem fastTick_cycle (prov : Byte) (s : State) : (fastTick prov s).cycle = s.cycle := by simp [fastTick]

@[simp] theorem baseAdvance_tickEn (prov : Byte) (s : State) : (baseAdvance prov s).tickEn = s.tickEn := by unfold baseAdvance; split <;> simp
@[simp] theorem baseAdvance_preCnt (prov : Byte) (s : State) : (baseAdvance prov s).preCnt = s.preCnt := by unfold baseAdvance; split <;> simp
@[simp] theorem baseAdvance_fastSlot (prov : Byte) (s : State) : (baseAdvance prov s).fastSlot = s.fastSlot := by unfold baseAdvance; split <;> simp
@[simp] theorem baseAdvance_slowSlot (prov : Byte) (s : State) : (baseAdvance prov s).slowSlot = s.slowSlot := by unfold baseAdvance; split <;> simp
@[simp] theorem baseAdvance_lightEn (prov : Byte) (s : State) : (baseAdvance prov s).lightEn = s.lightEn := by unfold baseAdvance; split <;> simp
@[simp] theorem baseAdvance_mask (prov : Byte) (s : State) : (baseAdvance prov s).mask = s.mask := by unfold baseAdvance; split <;> simp
@[simp] theorem baseAdvance_brightness (prov : Byte) (s : State) : (baseAdvance prov s).brightness = s.brightness := by unfold baseAdvance; split <;> simp
@[simp] theorem baseAdvance_irEn (prov : Byte) (s : State) : (baseAdvance prov s).irEn = s.irEn := by unfold baseAdvance; split <;> simp
@[simp] theorem baseAdvance_carCnt (prov : Byte) (s : State) : (baseAdvance prov s).carCnt = s.carCnt := by unfold baseAdvance; split <;> simp
@[simp] theorem baseAdvance_carrier (prov : Byte) (s : State) : (baseAdvance prov s).carrier = s.carrier := by unfold baseAdvance; split <;> simp
@[simp] theorem baseAdvance_rxIntent (prov : Byte) (s : State) : (baseAdvance prov s).rxIntent = s.rxIntent := by unfold baseAdvance; split <;> simp
@[simp] theorem baseAdvance_rxPrev (prov : Byte) (s : State) : (baseAdvance prov s).rxPrev = s.rxPrev := by unfold baseAdvance; split <;> simp
@[simp] theorem baseAdvance_rxIdx (prov : Byte) (s : State) : (baseAdvance prov s).rxIdx = s.rxIdx := by unfold baseAdvance; split <;> simp
@[simp] theorem baseAdvance_rxCnt (prov : Byte) (s : State) : (baseAdvance prov s).rxCnt = s.rxCnt := by unfold baseAdvance; split <;> simp
@[simp] theorem baseAdvance_rxShift (prov : Byte) (s : State) : (baseAdvance prov s).rxShift = s.rxShift := by unfold baseAdvance; split <;> simp
@[simp] theorem baseAdvance_rxData (prov : Byte) (s : State) : (baseAdvance prov s).rxData = s.rxData := by unfold baseAdvance; split <;> simp
@[simp] theorem baseAdvance_rxhReg (prov : Byte) (s : State) : (baseAdvance prov s).rxhReg = s.rxhReg := by unfold baseAdvance; split <;> simp
@[simp] theorem baseAdvance_txpReg (prov : Byte) (s : State) : (baseAdvance prov s).txpReg = s.txpReg := by unfold baseAdvance; split <;> simp
@[simp] theorem baseAdvance_irqRx (prov : Byte) (s : State) : (baseAdvance prov s).irqRx = s.irqRx := by unfold baseAdvance; split <;> simp
@[simp] theorem baseAdvance_txDone (prov : Byte) (s : State) : (baseAdvance prov s).txDone = s.txDone := by unfold baseAdvance; split <;> simp
@[simp] theorem baseAdvance_cmdFault (prov : Byte) (s : State) : (baseAdvance prov s).cmdFault = s.cmdFault := by unfold baseAdvance; split <;> simp
@[simp] theorem baseAdvance_cfg (prov : Byte) (s : State) : (baseAdvance prov s).cfg = s.cfg := by unfold baseAdvance; split <;> simp
@[simp] theorem baseAdvance_inputs (prov : Byte) (s : State) : (baseAdvance prov s).inputs = s.inputs := by unfold baseAdvance; split <;> simp
@[simp] theorem baseAdvance_cycle (prov : Byte) (s : State) : (baseAdvance prov s).cycle = s.cycle := by unfold baseAdvance; split <;> simp

@[simp] theorem tickAdvance_tickEn (prov : Byte) (s : State) : (tickAdvance prov s).tickEn = s.tickEn := by unfold tickAdvance; split_ifs <;> simp
@[simp] theorem tickAdvance_fastSlot (prov : Byte) (s : State) : (tickAdvance prov s).fastSlot = s.fastSlot := by unfold tickAdvance; split_ifs <;> simp
@[simp] theorem tickAdvance_slowSlot (prov : Byte) (s : State) : (tickAdvance prov s).slowSlot = s.slowSlot := by unfold tickAdvance; split_ifs <;> simp
@[simp] theorem tickAdvance_lightEn (prov : Byte) (s : State) : (tickAdvance prov s).lightEn = s.lightEn := by unfold tickAdvance; split_ifs <;> simp
@[simp] theorem tickAdvance_mask (prov : Byte) (s : State) : (tickAdvance prov s).mask = s.mask := by unfold tickAdvance; split_ifs <;> simp
@[simp] theorem tickAdvance_brightness (prov : Byte) (s : State) : (tickAdvance prov s).brightness = s.brightness := by unfold tickAdvance; split_ifs <;> simp
@[simp] theorem tickAdvance_irEn (prov : Byte) (s : State) : (tickAdvance prov s).irEn = s.irEn := by unfold tickAdvance; split_ifs <;> simp
@[simp] theorem tickAdvance_carCnt (prov : Byte) (s : State) : (tickAdvance prov s).carCnt = s.carCnt := by unfold tickAdvance; split_ifs <;> simp
@[simp] theorem tickAdvance_carrier (prov : Byte) (s : State) : (tickAdvance prov s).carrier = s.carrier := by unfold tickAdvance; split_ifs <;> simp
@[simp] theorem tickAdvance_rxIntent (prov : Byte) (s : State) : (tickAdvance prov s).rxIntent = s.rxIntent := by unfold tickAdvance; split_ifs <;> simp
@[simp] theorem tickAdvance_rxPrev (prov : Byte) (s : State) : (tickAdvance prov s).rxPrev = s.rxPrev := by unfold tickAdvance; split_ifs <;> simp
@[simp] theorem tickAdvance_rxIdx (prov : Byte) (s : State) : (tickAdvance prov s).rxIdx = s.rxIdx := by unfold tickAdvance; split_ifs <;> simp
@[simp] theorem tickAdvance_rxCnt (prov : Byte) (s : State) : (tickAdvance prov s).rxCnt = s.rxCnt := by unfold tickAdvance; split_ifs <;> simp
@[simp] theorem tickAdvance_rxShift (prov : Byte) (s : State) : (tickAdvance prov s).rxShift = s.rxShift := by unfold tickAdvance; split_ifs <;> simp
@[simp] theorem tickAdvance_rxData (prov : Byte) (s : State) : (tickAdvance prov s).rxData = s.rxData := by unfold tickAdvance; split_ifs <;> simp
@[simp] theorem tickAdvance_rxhReg (prov : Byte) (s : State) : (tickAdvance prov s).rxhReg = s.rxhReg := by unfold tickAdvance; split_ifs <;> simp
@[simp] theorem tickAdvance_txpReg (prov : Byte) (s : State) : (tickAdvance prov s).txpReg = s.txpReg := by unfold tickAdvance; split_ifs <;> simp
@[simp] theorem tickAdvance_irqRx (prov : Byte) (s : State) : (tickAdvance prov s).irqRx = s.irqRx := by unfold tickAdvance; split_ifs <;> simp
@[simp] theorem tickAdvance_txDone (prov : Byte) (s : State) : (tickAdvance prov s).txDone = s.txDone := by unfold tickAdvance; split_ifs <;> simp
@[simp] theorem tickAdvance_cmdFault (prov : Byte) (s : State) : (tickAdvance prov s).cmdFault = s.cmdFault := by unfold tickAdvance; split_ifs <;> simp
@[simp] theorem tickAdvance_cfg (prov : Byte) (s : State) : (tickAdvance prov s).cfg = s.cfg := by unfold tickAdvance; split_ifs <;> simp
@[simp] theorem tickAdvance_inputs (prov : Byte) (s : State) : (tickAdvance prov s).inputs = s.inputs := by unfold tickAdvance; split_ifs <;> simp
@[simp] theorem tickAdvance_cycle (prov : Byte) (s : State) : (tickAdvance prov s).cycle = s.cycle := by unfold tickAdvance; split_ifs <;> simp

end Machine
end Sys2Proof
end

