-- ==== Sys2Proof/Laws/Engines.lean ====
section
/-!
SUPPORT. What each engine procedure and shared operation does to the fields it writes, said once: the cases of
`TxPush`, `TxAdvance`, `RxAdvance`, `CarrierAdvance`, `TickAdvance`, `PwmStep`, `IrPeriodicStep`, `Invoke`. The
provers cite these instead of unfolding the procedures.
-/

namespace Sys2Proof
namespace Machine

/-! ### Bits -/

/-- Writing bit `i` of a vector: that bit reads as written, every other bit as before. -/
theorem getLsbD_writeBit {n : Nat} (v : BitVec n) (i : Nat) (b : Bool) (j : Nat) :
    (writeBit v i b).getLsbD j = if j = i ∧ i < n then b else v.getLsbD j := by
  unfold writeBit
  by_cases hj : j < n
  · have key : (1#n <<< i).getLsbD j = decide (j = i) := by
      rw [BitVec.getLsbD_shiftLeft, BitVec.getLsbD_one]
      by_cases h : j = i
      · subst h
        simp [hj]
        omega
      · simp only [h, hj]
        simp
        omega
    cases b
    · simp only [Bool.false_eq_true, if_false, BitVec.getLsbD_and, BitVec.getLsbD_not, key, hj]
      by_cases h : j = i
      · subst h
        simp [hj]
      · simp [h]
    · simp only [if_true, BitVec.getLsbD_or, key]
      by_cases h : j = i
      · subst h
        simp [hj]
      · simp [h]
  · have h1 : ∀ w : BitVec n, w.getLsbD j = false := fun w => BitVec.getLsbD_of_ge w j (Nat.le_of_not_lt hj)
    have h2 : ¬(j = i ∧ i < n) := by omega
    rw [if_neg h2, h1, h1]

/-! ### Transmitter -/

theorem txPush_accepted {b : Byte} {s : State} (h : s.irEn = true) (h' : s.txBusy = false) :
    txPush b s = startFrame b s := by simp [txPush, h, h']

theorem txPush_dropped {b : Byte} {s : State} (h : s.irEn = false ∨ s.txBusy = true) : txPush b s = s := by
  unfold txPush
  rcases h with h | h <;> simp [h]

theorem txPush_txBusy (b : Byte) (s : State) : (txPush b s).txBusy = (s.irEn || s.txBusy) := by
  unfold txPush
  cases h : s.irEn <;> cases h' : s.txBusy <;> simp [h']

@[simp] theorem txReadyHandler_rxHwEn (s : State) : (txReadyHandler s).rxHwEn = (s.rxHwEn || s.rxIntent) := by
  unfold txReadyHandler
  cases h : s.rxIntent <;> simp

theorem txAdvance_idle {s : State} (h : s.txBusy = false) : txAdvance s = s := by simp [txAdvance, h]

theorem txAdvance_within_bit {s : State} (h : s.txBusy = true) (h' : s.txCnt ≠ s.cfg.bitCycles - 1) :
    txAdvance s = setTxCnt (s.txCnt + 1) s := by simp [txAdvance, h, h']

theorem txAdvance_next_bit {s : State} (h : s.txBusy = true) (h' : s.txCnt = s.cfg.bitCycles - 1)
    (h9 : s.txIdx ≠ 9) : txAdvance s = setTxIdx (s.txIdx + 1) (setTxCnt 0 s) := by
  simp [txAdvance, txNextBit, h, h', h9]

theorem txAdvance_frame_end {s : State} (h : frameEnds s) :
    txAdvance s = txReadyHandler (strobeTxDone (endFrame (setTxCnt 0 s))) := by
  obtain ⟨h1, h2, h3⟩ := h
  simp [txAdvance, txNextBit, h1, h2, h3]

/-- Whatever the transmitter does, either the frame ends, or the receive enable and `tx_done` stay. -/
theorem txAdvance_not_frame_end {s : State} (h : ¬frameEnds s) :
    (txAdvance s).rxHwEn = s.rxHwEn ∧ (txAdvance s).txDone = s.txDone ∧ (txAdvance s).txBusy = s.txBusy := by
  by_cases hb : s.txBusy = true
  · by_cases hc : s.txCnt = s.cfg.bitCycles - 1
    · rw [txAdvance_next_bit hb hc (fun h9 => h ⟨hb, h9, hc⟩)]
      simp
    · rw [txAdvance_within_bit hb hc]
      simp
  · rw [txAdvance_idle (by simpa using hb)]
    simp

theorem txAdvance_rxHwEn (s : State) :
    (txAdvance s).rxHwEn = true ↔ s.rxHwEn = true ∨ (frameEnds s ∧ s.rxIntent = true) := by
  by_cases h : frameEnds s
  · rw [txAdvance_frame_end h]
    simp only [txReadyHandler_rxHwEn, strobeTxDone_rxHwEn, endFrame_rxHwEn, setTxCnt_rxHwEn, strobeTxDone_rxIntent,
      endFrame_rxIntent, setTxCnt_rxIntent, Bool.or_eq_true]
    tauto
  · rw [(txAdvance_not_frame_end h).1]
    tauto

theorem txAdvance_txDone (s : State) : (txAdvance s).txDone = true ↔ s.txDone = true ∨ frameEnds s := by
  by_cases h : frameEnds s
  · rw [txAdvance_frame_end h]
    simp only [txReadyHandler_txDone, strobeTxDone_txDone, true_iff]
    exact .inr h
  · rw [(txAdvance_not_frame_end h).2.1]
    tauto

/-! ### Periodic transmit step -/

theorem irPeriodicStep_off {prov : Byte} {s : State} (h : s.irEn = false ∨ s.txpReg = false) :
    irPeriodicStep prov s = s := by
  unfold irPeriodicStep
  rcases h with h | h <;> simp [h]

theorem irPeriodicStep_on {prov : Byte} {s : State} (h : s.irEn = true) (h' : s.txpReg = true) :
    irPeriodicStep prov s = txPush prov (strobeProvTake (rxHwDisable s)) := by simp [irPeriodicStep, h, h']

/-! ### Receiver -/

theorem rxEngine_off {line : Bool} {s : State} (h : ¬(s.irEn = true ∧ s.rxHwEn = true)) : rxEngine line s = s := by
  simp [rxEngine, h]

theorem rxEngine_idle {line : Bool} {s : State} (h : s.irEn = true) (h' : s.rxHwEn = true) (hb : s.rxBusy = false) :
    rxEngine line s = rxStart line s := by simp [rxEngine, h, h', hb]

theorem rxEngine_busy {line : Bool} {s : State} (h : s.irEn = true) (h' : s.rxHwEn = true) (hb : s.rxBusy = true) :
    rxEngine line s = rxSample line (rxCount s) := by simp [rxEngine, h, h', hb]

@[simp] theorem rxComplete_rxData (s : State) : (rxComplete s).rxData = s.rxShift := by
  unfold rxComplete; split <;> rfl
@[simp] theorem rxComplete_rxBusy (s : State) : (rxComplete s).rxBusy = false := by
  unfold rxComplete; split <;> rfl
@[simp] theorem rxComplete_rxIdx (s : State) : (rxComplete s).rxIdx = 0 := by unfold rxComplete; split <;> rfl
@[simp] theorem rxComplete_rxCnt (s : State) : (rxComplete s).rxCnt = 0 := by unfold rxComplete; split <;> rfl
@[simp] theorem rxComplete_irqRx (s : State) : (rxComplete s).irqRx = (s.irqRx || s.rxhReg) := by
  unfold rxComplete
  cases h : s.rxhReg <;> simp

/-! ### Carrier -/

theorem carrierAdvance_off {s : State} (h : s.irEn = false) : carrierAdvance s = s := by simp [carrierAdvance, h]

theorem carrierAdvance_carCnt (s : State) : (carrierAdvance s).carCnt =
    if s.irEn then (if s.carCnt = carrierHalf s.cfg - 1 then 0 else s.carCnt + 1) else s.carCnt := by
  unfold carrierAdvance
  split_ifs <;> rfl

theorem carrierAdvance_carrier (s : State) : (carrierAdvance s).carrier =
    if s.irEn = true ∧ s.carCnt = carrierHalf s.cfg - 1 then !s.carrier else s.carrier := by
  unfold carrierAdvance
  by_cases h : s.irEn = true <;> by_cases h' : s.carCnt = carrierHalf s.cfg - 1 <;> simp [h, h']

/-! ### PWM -/

theorem pwmStep_pwmCnt (s : State) : (pwmStep s).pwmCnt = (s.pwmCnt + 1) % 100 := rfl

theorem pwmStep_gate (s : State) : (pwmStep s).gate =
    if (s.pwmCnt + 1) % 100 = s.brightness then false
    else if (s.pwmCnt + 1) % 100 = 0 then true else s.gate := rfl

@[simp] theorem pwmSteps_zero (s : State) : pwmSteps 0 s = s := rfl
@[simp] theorem pwmSteps_succ (k : Nat) (s : State) : pwmSteps (k + 1) s = pwmStep (pwmSteps k s) := rfl

/-- Any number of PWM steps leaves the brightness. -/
theorem pwmSteps_brightness (k : Nat) (s : State) : (pwmSteps k s).brightness = s.brightness := by
  induction k with
  | zero => rfl
  | succ k ih => exact ih

/-! ### Tick chain -/

theorem tickAdvance_off {prov : Byte} {s : State} (h : s.tickEn = false) : tickAdvance prov s = s := by
  simp [tickAdvance, h]

theorem tickAdvance_within_base {prov : Byte} {s : State} (h : s.tickEn = true)
    (h' : s.preCnt ≠ s.cfg.tickPrescale - 1) : tickAdvance prov s = setPreCnt (s.preCnt + 1) s := by
  simp [tickAdvance, h, h']

theorem tickAdvance_base_count {prov : Byte} {s : State} (h : s.tickEn = true)
    (h' : s.preCnt = s.cfg.tickPrescale - 1) (hb : s.baseCnt ≠ s.cfg.fastCounts - 1) :
    tickAdvance prov s = setBaseCnt (s.baseCnt + 1) (setPreCnt 0 s) := by
  simp [tickAdvance, baseAdvance, h, h', hb]

theorem tickAdvance_fast {prov : Byte} {s : State} (h : fastTickDue s) :
    tickAdvance prov s = fastTick prov (setBaseCnt 0 (setPreCnt 0 s)) := by
  obtain ⟨h1, h2, h3⟩ := h
  simp [tickAdvance, baseAdvance, h1, h2, h3]

/-- Without a fast tick the tick chain writes only its own two dividers. -/
theorem tickAdvance_no_tick {s : State} (h : ¬fastTickDue s) (prov : Byte) :
    ∃ p b, tickAdvance prov s = setBaseCnt b (setPreCnt p s) := by
  by_cases h1 : s.tickEn = true
  · by_cases h2 : s.preCnt = s.cfg.tickPrescale - 1
    · exact ⟨_, _, tickAdvance_base_count h1 h2 (fun h3 => h ⟨h1, h2, h3⟩)⟩
    · exact ⟨s.preCnt + 1, s.baseCnt, tickAdvance_within_base h1 h2⟩
  · exact ⟨s.preCnt, s.baseCnt, tickAdvance_off (by simpa using h1)⟩

theorem tickAdvance_preCnt (prov : Byte) (s : State) : (tickAdvance prov s).preCnt =
    if s.tickEn then (if s.preCnt = s.cfg.tickPrescale - 1 then 0 else s.preCnt + 1) else s.preCnt := by
  unfold tickAdvance baseAdvance
  split_ifs <;> simp

theorem tickAdvance_baseCnt (prov : Byte) (s : State) : (tickAdvance prov s).baseCnt =
    if s.tickEn = true ∧ s.preCnt = s.cfg.tickPrescale - 1 then
      (if s.baseCnt = s.cfg.fastCounts - 1 then 0 else s.baseCnt + 1)
    else s.baseCnt := by
  unfold tickAdvance baseAdvance
  by_cases h1 : s.tickEn = true <;> by_cases h2 : s.preCnt = s.cfg.tickPrescale - 1 <;>
    by_cases h3 : s.baseCnt = s.cfg.fastCounts - 1 <;> simp [h1, h2, h3]

theorem tickAdvance_slowCnt (prov : Byte) (s : State) : (tickAdvance prov s).slowCnt =
    if fastTickDue s then (s.slowCnt + 1) % s.cfg.slowDiv else s.slowCnt := by
  by_cases h : fastTickDue s
  · rw [tickAdvance_fast h, if_pos h]
    simp [fastTick]
  · obtain ⟨p, b, e⟩ := tickAdvance_no_tick h prov
    rw [e, if_neg h]
    simp

/-! ### Cycle -/

/-- The step under a configuration within R5: reset, or the engines and then the command. -/
theorem step_eq {s : State} (h : s.cfg.wellFormed = true) :
    step s = if (currentInput s).rst then .next (resetBlock (consumeInput s))
      else commandStep (currentInput s) (engines (currentInput s) (consumeInput s)) := by
  simp [step, cycleStep, stepWith, h]

/-- A step that gives a next state had a configuration within R5. -/
theorem cfg_wellFormed_of_step {s t : State} (h : step s = .next t) : s.cfg.wellFormed = true := by
  by_contra hc
  simp [step, cycleStep, hc] at h

/-- What the command sub-step can do: nothing, the presented command, or the fault of a reserved word. -/
theorem commandStep_cases {inp : Input} {s t : State} (h : commandStep inp s = .next t) :
    (inp.cmdValid = false ∧ t = s) ∨ (∃ i, presents inp i ∧ exec i s = .next t) ∨
      (inp.cmdValid = true ∧ isReserved inp.cmd = true ∧ t = raiseCmdFault s) := by
  unfold commandStep at h
  cases hv : inp.cmdValid
  · simp only [hv, Bool.false_eq_true, if_false] at h
    left
    exact ⟨rfl, by cases h; rfl⟩
  · simp only [hv, if_true] at h
    right
    cases hd : decode inp.cmd with
    | command i =>
      rw [hd] at h
      exact .inl ⟨i, ⟨hv, hd⟩, h⟩
    | reserved r =>
      rw [hd] at h
      right
      exact ⟨rfl, by simp [isReserved, hd], by cases h; rfl⟩

theorem commandStep_no_command {inp : Input} (s : State) (h : inp.cmdValid = false) :
    commandStep inp s = .next s := by simp [commandStep, h]

theorem commandStep_command {inp : Input} {i : Instr} (s : State) (h : presents inp i) :
    commandStep inp s = exec i s := by simp [commandStep, h.1, h.2]

/-- One more step of a run. -/
theorem run_succ {n : Nat} {s t : State} (h : run n s = .next t) : run (n + 1) s = step t := by
  simp [run, h]

/-- A run splits at any point. -/
theorem run_add (m n : Nat) {s t : State} (h : run m s = .next t) : run (m + n) s = run n t := by
  induction n with
  | zero => simpa [run] using h
  | succ n ih => rw [← Nat.add_assoc, run, ih, run]

end Machine
end Sys2Proof
end

