-- ==== Sys2Proof/Laws/PerInstr.lean ====
section
/-!
SUPPORT. Facts stated per instruction: one lemma per constructor of `Instr`. `EncodeMatchesRow`: the word `encode`
writes selects the command's own row of the opcode map of R83, for every operand.
-/

namespace Sys2Proof
namespace Laws

/-- The encoded word selects the command's row: `(w AND mask) = match` (R83). -/
def EncodeMatchesRow.Statement (i : Instr) : Prop := (rowOf i).selectedBy (encode i) = true

theorem EncodeMatchesRow.nop : EncodeMatchesRow.Statement .nop := rfl

theorem EncodeMatchesRow.tickInit : EncodeMatchesRow.Statement .tickInit := rfl

theorem EncodeMatchesRow.regFast (h : HandlerId) : EncodeMatchesRow.Statement (.regFast h) := by
  cases h <;> rfl

theorem EncodeMatchesRow.regSlow (h : HandlerId) : EncodeMatchesRow.Statement (.regSlow h) := by
  cases h <;> rfl

theorem EncodeMatchesRow.lightInit : EncodeMatchesRow.Statement .lightInit := rfl

theorem EncodeMatchesRow.setChannel (c : Channel) (on : Bool) : EncodeMatchesRow.Statement (.setChannel c on) := by
  unfold EncodeMatchesRow.Statement
  revert c on
  decide

theorem EncodeMatchesRow.allOff : EncodeMatchesRow.Statement .allOff := rfl

theorem EncodeMatchesRow.setBright (b : Byte) : EncodeMatchesRow.Statement (.setBright b) := by
  simp only [EncodeMatchesRow.Statement, rowOf, encode, OpcodeRow.selectedBy, beq_iff_eq]
  exact wordOf_and_high _ b

theorem EncodeMatchesRow.irInit : EncodeMatchesRow.Statement .irInit := rfl

theorem EncodeMatchesRow.rxEnable : EncodeMatchesRow.Statement .rxEnable := rfl

theorem EncodeMatchesRow.rxDisable : EncodeMatchesRow.Statement .rxDisable := rfl

theorem EncodeMatchesRow.rxSuspend : EncodeMatchesRow.Statement .rxSuspend := rfl

theorem EncodeMatchesRow.regRxh (p : Bool) : EncodeMatchesRow.Statement (.regRxh p) := by
  cases p <;> rfl

theorem EncodeMatchesRow.regTxp (p : Bool) : EncodeMatchesRow.Statement (.regTxp p) := by
  cases p <;> rfl

theorem EncodeMatchesRow.txStart : EncodeMatchesRow.Statement .txStart := rfl

theorem EncodeMatchesRow.txStop : EncodeMatchesRow.Statement .txStop := rfl

theorem EncodeMatchesRow.transmit (b : Byte) : EncodeMatchesRow.Statement (.transmit b) := by
  simp only [EncodeMatchesRow.Statement, rowOf, encode, OpcodeRow.selectedBy, beq_iff_eq]
  exact wordOf_and_high _ b

end Laws
end Sys2Proof
end

