-- ==== Sys2Proof/Laws/Runs.lean ====
section
/-!
SUPPORT. Induction over runs, packaged once: what every step keeps holds along a run, and which inputs the k-th
cycle of a run reads.
-/

namespace Sys2Proof
namespace Machine

/-- A run of `n` cycles from a property that each of its cycles hands on. -/
theorem run_induct {P : Nat → State → Prop} {n : Nat} {s : State} (h0 : P 0 s)
    (hs : ∀ k t, k < n → P k t → ∃ u, step t = .next u ∧ P (k + 1) u) : ∃ t, run n s = .next t ∧ P n t := by
  induction n with
  | zero => exact ⟨s, rfl, h0⟩
  | succ n ih =>
    obtain ⟨t, ht, hp⟩ := ih fun k t hk => hs k t (by omega)
    obtain ⟨u, hu, hq⟩ := hs n t (by omega) hp
    exact ⟨u, by rw [run_succ ht, hu], hq⟩

/-- What every step keeps holds at the end of every run. -/
theorem run_keeps {P : State → Prop} (hs : ∀ t u, P t → step t = .next u → P u) (n : Nat) {s t : State}
    (h0 : P s) (h : run n s = .next t) : P t := by
  induction n generalizing t with
  | zero => cases h; exact h0
  | succ n ih =>
    unfold run at h
    split at h
    · exact hs _ _ (ih ‹_›) h
    · cases h
    · cases h

/-- The inputs of the next cycle, where they are listed. -/
theorem currentInput_of_listed {s : State} {inp : Input} (h : s.inputs[0]? = some inp) : currentInput s = inp := by
  cases hl : s.inputs with
  | nil => simp [hl] at h
  | cons a l =>
    simp only [hl, List.getElem?_cons_zero, Option.some.injEq] at h
    simp [currentInput, hl, h]

/-- No command touches the model's own fields. -/
theorem exec_own_fields {i : Instr} {s t : State} (h : exec i s = .next t) :
    t.cfg = s.cfg ∧ t.inputs = s.inputs ∧ t.cycle = s.cycle := by
  cases i with
  | setChannel c on =>
    simp only [exec, execSetChannel] at h
    split at h <;> cases h <;> exact ⟨rfl, rfl, rfl⟩
  | transmit b =>
    simp only [exec, execTransmit] at h
    cases h
    simp
  | _ => cases h; exact ⟨rfl, rfl, rfl⟩

/-- What a step does to the model's own fields. -/
theorem step_own_fields {s t : State} (h : step s = .next t) :
    t.cfg = s.cfg ∧ t.inputs = s.inputs.tail ∧ t.cycle = s.cycle + 1 := by
  rw [step_eq (cfg_wellFormed_of_step h)] at h
  split at h
  · cases h; simp
  · obtain ⟨-, rfl⟩ | ⟨i, -, hi⟩ | ⟨-, -, rfl⟩ := commandStep_cases h
    · simp [engines]
    · have := exec_own_fields hi
      simpa [engines] using this
    · simp [engines]

/-- After `k` steps of a run the first `k` listed inputs are gone and the configuration stands. -/
theorem run_own_fields (k : Nat) {s t : State} (h : run k s = .next t) :
    t.cfg = s.cfg ∧ t.inputs = s.inputs.drop k ∧ t.cycle = s.cycle + k := by
  induction k generalizing t with
  | zero => cases h; simp
  | succ k ih =>
    unfold run at h
    split at h
    · obtain ⟨h1, h2, h3⟩ := ih ‹_›
      obtain ⟨g1, g2, g3⟩ := step_own_fields h
      exact ⟨g1.trans h1, by rw [g2, h2, List.tail_drop], by omega⟩
    · cases h
    · cases h

/-- The inputs that the cycle after `k` steps of a run reads, where they are listed. -/
theorem currentInput_run {k : Nat} {s t : State} {inp : Input} (h : run k s = .next t) (hi : s.inputs[k]? = some inp) :
    currentInput t = inp := by
  refine currentInput_of_listed ?_
  rw [(run_own_fields k h).2.1, List.getElem?_drop, Nat.add_zero, hi]

/-- A promise about the next `n` inputs, read off at cycle `k < n` of the run. -/
theorem nextInputs_run {n k : Nat} {s t : State} {p : Input → Prop} (hp : s.nextInputs n p) (hk : k < n)
    (h : run k s = .next t) : p (currentInput t) := by
  have hl : k < s.inputs.length := by have := hp.1; omega
  rw [currentInput_run h (List.getElem?_eq_getElem hl)]
  exact hp.2 _ (List.mem_take_iff_getElem.mpr ⟨k, by omega, rfl⟩)

end Machine
end Sys2Proof
end

