-- ==== Sys2Proof/Tests/Slice0.lean ====
section
/-!
SUPPORT. Tests: the checks of `WellFormed` on terms they refuse, words written out from the encodings of
30_encoding.md, one-step tests whose expected values stand in the spec's examples or vectors (named in each comment),
and for every obligation with hypotheses a concrete state and operands that meet them together.
-/

namespace Sys2Proof
namespace Tests

open Sys2Proof.Machine

/-! ## Helpers -/

/-- The reset state under `TEST` (R7). -/
def base : State := State.resetWith Cfg.test

/-- The smallest configuration of R5: every parameter at its bound, so every cycle is a fast and a slow tick. -/
def tiny : Cfg := { fClk := 76000, tickPrescale := 1, fastCounts := 1, slowDiv := 1, bitCycles := 2 }

/-- A block with both initialisations done, under `tiny`. -/
def up : State := { State.resetWith tiny with tickEn := true, lightEn := true, irEn := true }

/-- The inputs of a cycle that presents a command on an idle line. -/
def cmdIn (i : Instr) : Input := presentWord (encode i) idleInput

/-- A state whose next cycle presents a command. -/
def withCmd (s : State) (i : Instr) : State := { s with inputs := [cmdIn i] }

/-- A state whose next cycle presents nothing. -/
def quiet (s : State) : State := { s with inputs := [idleInput] }

/-- A field of the next state, if there is one. -/
def look {α : Type} (f : State → α) (o : Host.Outcome State Fault Refusal) : Option α :=
  match o with
  | .next t => some (f t)
  | .fault _ => none
  | .refused _ => none

/-- The refusal, if the outcome is one. -/
def refusal (o : Host.Outcome State Fault Refusal) : Option Refusal :=
  match o with
  | .next _ => none
  | .fault _ => none
  | .refused r => some r

/-- The inputs of ten bit times of two cycles each that carry the frame of `b` (R192, R207). -/
def frameIns (b : Byte) : List Input :=
  (List.range 20).map fun k => { idleInput with rxLine := (frameBits b).getLsbD (k / 2) }

/-! ## WellFormed -/

/-- Channel 3 does not exist (R28). -/
theorem test_wellFormed_channel_three_refused : (Instr.setChannel 3#2 true).wellFormed = false := by decide

theorem test_wellFormed_channel_white : (Instr.setChannel Channel.white false).wellFormed = true := by decide

/-- R5: `F_CLK >= 76000`. -/
theorem test_wellFormed_fClk_refused : ({ tiny with fClk := 75999 } : Cfg).wellFormed = false := by decide

/-- R5: `TICK_PRESCALE >= 1`. -/
theorem test_wellFormed_tickPrescale_refused : ({ tiny with tickPrescale := 0 } : Cfg).wellFormed = false := by decide

/-- R5: `FAST_COUNTS >= 1`. -/
theorem test_wellFormed_fastCounts_refused : ({ tiny with fastCounts := 0 } : Cfg).wellFormed = false := by decide

/-- R5: `SLOW_DIV >= 1`. -/
theorem test_wellFormed_slowDiv_refused : ({ tiny with slowDiv := 0 } : Cfg).wellFormed = false := by decide

/-- R5: `BIT_CYCLES >= 2`. -/
theorem test_wellFormed_bitCycles_refused : ({ tiny with bitCycles := 1 } : Cfg).wellFormed = false := by decide

/-- R5: each constraint is met at its bound. -/
theorem test_wellFormed_bounds : tiny.wellFormed = true := by decide

/-- The configurations of R7. -/
theorem test_wellFormed_named :
    Cfg.ref.wellFormed = true ∧ Cfg.test.wellFormed = true ∧ Cfg.testw.wellFormed = true := by decide

/-! ## Words written out from R83 -/

theorem test_decode_nop : decode 0x0000#16 = .command .nop ∧ encode .nop = 0x0000#16 := by decide

theorem test_decode_tickInit : decode 0x1000#16 = .command .tickInit ∧ encode .tickInit = 0x1000#16 := by decide

theorem test_decode_regFast :
    decode 0x1103#16 = .command (.regFast .hExt) ∧ encode (.regFast .hExt) = 0x1103#16 := by decide

theorem test_decode_regSlow :
    decode 0x1202#16 = .command (.regSlow .hIrtx) ∧ encode (.regSlow .hIrtx) = 0x1202#16 := by decide

theorem test_decode_lightInit : decode 0x2000#16 = .command .lightInit ∧ encode .lightInit = 0x2000#16 := by decide

theorem test_decode_setChannel :
    decode 0x2181#16 = .command (.setChannel Channel.green true) ∧
      encode (.setChannel Channel.green true) = 0x2181#16 := by decide

theorem test_decode_allOff : decode 0x2200#16 = .command .allOff ∧ encode .allOff = 0x2200#16 := by decide

theorem test_decode_setBright :
    decode 0x231E#16 = .command (.setBright 30#8) ∧ encode (.setBright 30#8) = 0x231E#16 := by decide

theorem test_decode_irInit : decode 0x3000#16 = .command .irInit ∧ encode .irInit = 0x3000#16 := by decide

theorem test_decode_rxEnable : decode 0x3100#16 = .command .rxEnable ∧ encode .rxEnable = 0x3100#16 := by decide

theorem test_decode_rxDisable : decode 0x3200#16 = .command .rxDisable ∧ encode .rxDisable = 0x3200#16 := by decide

theorem test_decode_rxSuspend : decode 0x3300#16 = .command .rxSuspend ∧ encode .rxSuspend = 0x3300#16 := by decide

theorem test_decode_regRxh :
    decode 0x3401#16 = .command (.regRxh true) ∧ encode (.regRxh true) = 0x3401#16 := by decide

theorem test_decode_regTxp :
    decode 0x3501#16 = .command (.regTxp true) ∧ encode (.regTxp true) = 0x3501#16 := by decide

theorem test_decode_txStart : decode 0x3600#16 = .command .txStart ∧ encode .txStart = 0x3600#16 := by decide

theorem test_decode_txStop : decode 0x3700#16 = .command .txStop ∧ encode .txStop = 0x3700#16 := by decide

theorem test_decode_transmit :
    decode 0x38A5#16 = .command (.transmit 0xA5#8) ∧ encode (.transmit 0xA5#8) = 0x38A5#16 := by decide

/-- R84. -/
theorem test_reserved_opcode : decode 0x0100#16 = .reserved .opcode := by decide

/-- R84. -/
theorem test_reserved_operand : decode 0x1001#16 = .reserved .operandNotZero := by decide

/-- R84. -/
theorem test_reserved_handler : decode 0x1104#16 = .reserved .handlerId := by decide

/-- R84. -/
theorem test_reserved_channel_bits : decode 0x2104#16 = .reserved .channelBits := by decide

/-- R84. -/
theorem test_reserved_channel_number : decode 0x2183#16 = .reserved .channelNumber := by decide

/-- R84. -/
theorem test_reserved_hook : decode 0x3402#16 = .reserved .hookOperand := by decide

theorem test_decodeTableWord_set_channel :
    decodeTableWord 16 0x2182 = some (.setChannel Channel.white true) := by decide

theorem test_decodeTableWord_reserved : decodeTableWord 16 0x2183 = none := by decide

/-! ## Reset and the outputs -/

/-- R252: idle line, not ready, `rx_prev = 1`. -/
theorem test_reset_outputs :
    (outputs State.reset).txLine = true ∧ (outputs State.reset).txReady = false ∧
      State.reset.rxPrev = true := by decide

/-- R250. -/
theorem test_reset_cycle :
    look (fun t => (t.mask, t.rxPrev, t.cmdFault)) (step { base with
      mask := 5#3, rxPrev := false, cmdFault := true, inputs := [{ cmdIn .irInit with rst := true }] }) =
      some (0#3, true, false) := by decide

/-- U16. -/
theorem test_config_refused :
    refusal (step (quiet (State.resetWith { tiny with bitCycles := 1 }))) = some .configOutOfRange := by decide

/-- R35. -/
theorem test_fault_is_sticky :
    look State.cmdFault (step (withCmd { base with cmdFault := true } .nop)) = some true := by decide

/-- R84, R221. -/
theorem test_reserved_word_faults :
    look (fun t => (t.cmdFault, t.irEn)) (step { base with inputs := [presentWord 0x3001#16 idleInput] }) =
      some (true, false) := by decide

/-- The interface of this phase. -/
theorem test_withFetchWord : look State.mask (step (State.reset.withFetchWord 16 0x2181)) = some 2#3 := by decide

/-! ## One step per command -/

/-- R106: a cycle with `NOP` is a cycle of the engines (`CARRIER_HALF` = 1 under `tiny`). -/
theorem test_nop :
    look (fun t => (t.carCnt, t.mask)) (step (withCmd { up with mask := 5#3 } .nop)) = some (0, 5#3) := by decide

/-- R121: the chain starts in the next cycle. -/
theorem test_tickInit :
    look (fun t => (t.tickEn, t.preCnt)) (step (withCmd base .tickInit)) = some (true, 0) := by decide

/-- R122, R135 item 4: the tick of this cycle still serves the old slot. -/
theorem test_regFast :
    look (fun t => (t.fastSlot, t.irqFast)) (step (withCmd { up with fastSlot := .hPwm } (.regFast .hExt))) =
      some (.hExt, false) := by decide

/-- R123. -/
theorem test_regSlow :
    look (fun t => (t.slowSlot, t.fastSlot)) (step (withCmd base (.regSlow .hPwm))) =
      some (.hPwm, .hNone) := by decide

/-- The example of R141. -/
theorem test_lightInit :
    look (fun t => (t.tickEn, t.lightEn, t.fastSlot)) (step (withCmd base .lightInit)) =
      some (true, true, .hPwm) := by decide

/-- The example of R143. -/
theorem test_setChannel :
    look State.mask (step (withCmd { base with mask := 1#3 } (.setChannel Channel.green true))) =
      some 3#3 := by decide

/-- R143: clearing the top channel. -/
theorem test_setChannel_clear :
    look State.mask (step (withCmd { base with mask := 7#3 } (.setChannel Channel.white false))) =
      some 3#3 := by decide

/-- The example of R145. -/
theorem test_allOff :
    look (fun t => (t.mask, led t)) (step (withCmd { up with mask := 5#3, gate := true } .allOff)) =
      some (0#3, 0#3) := by decide

/-- The example of R147. -/
theorem test_setBright : look State.brightness (step (withCmd base (.setBright 30#8))) = some 30 := by decide

/-- The example of R147. -/
theorem test_setBright_clamps : look State.brightness (step (withCmd base (.setBright 200#8))) = some 100 := by decide

/-- R161, R103 item 1. -/
theorem test_irInit :
    look (fun t => (t.tickEn, t.irEn, t.carCnt, t.rxHwEn)) (step (withCmd base .irInit)) =
      some (true, true, 0, false) := by decide

/-- The example of R176. -/
theorem test_rxEnable :
    look (fun t => (t.rxIntent, t.rxHwEn)) (step (withCmd base .rxEnable)) = some (true, true) := by decide

/-- The example of R177. -/
theorem test_rxDisable :
    look (fun t => (t.rxIntent, t.rxHwEn, t.rxBusy)) (step (withCmd { up with rxIntent := true, rxHwEn := true, rxBusy := true } .rxDisable)) =
      some (false, false, false) := by decide

/-- The example of R178. -/
theorem test_rxSuspend :
    look (fun t => (t.rxIntent, t.rxHwEn)) (step (withCmd { base with rxIntent := true, rxHwEn := true } .rxSuspend)) =
      some (true, false) := by decide

/-- The example of R179. -/
theorem test_regRxh :
    look (fun t => (t.rxhReg, t.txpReg)) (step (withCmd base (.regRxh true))) = some (true, false) := by decide

/-- The example of R180. -/
theorem test_regTxp :
    look (fun t => (t.rxhReg, t.txpReg)) (step (withCmd base (.regTxp true))) = some (false, true) := by decide

/-- R181: nothing is sent by the command itself. -/
theorem test_txStart :
    look (fun t => (t.slowSlot, t.txBusy)) (step (withCmd { base with irEn := true, txpReg := true } .txStart)) =
      some (.hIrtx, false) := by decide

/-- The example of R182. -/
theorem test_txStop :
    look (fun t => (t.slowSlot, t.txBusy)) (step (withCmd { base with irEn := true, slowSlot := .hIrtx, txBusy := true } .txStop)) =
      some (.hNone, true) := by decide

/-- The example of R183: the start bit is on the line. -/
theorem test_transmit :
    look (fun t => (t.txBusy, t.txData, txLine t)) (step (withCmd { base with irEn := true } (.transmit 0xA5#8))) =
      some (true, 0xA5#8, false) := by decide

/-- R188: the byte is dropped, the frame in flight goes on. -/
theorem test_transmit_dropped :
    look (fun t => (t.txData, t.txCnt)) (step (withCmd { base with irEn := true, txBusy := true, txData := 0x11#8 } (.transmit 0xA5#8))) =
      some (0x11#8, 1) := by decide

/-! ## One step per engine event -/

/-- R150: the wrap opens the gate. -/
theorem test_pwm_wrap_opens : (pwmStep { base with pwmCnt := 99, brightness := 30 }).gate = true := by decide

/-- R150: with brightness 0 the gate ends closed. -/
theorem test_pwm_wrap_at_zero_closes : (pwmStep { base with pwmCnt := 99, gate := true }).gate = false := by decide

/-- R150. -/
theorem test_pwm_equality_closes :
    (pwmStep { base with pwmCnt := 29, brightness := 30, gate := true }).gate = false := by decide

/-- R163 with `CARRIER_HALF` = 5. -/
theorem test_carrier_toggles :
    look (fun t => (t.carrier, t.carCnt)) (step (quiet { base with irEn := true, carCnt := 4 })) =
      some (true, 0) := by decide

/-- R190, R191. -/
theorem test_frame_end :
    look (fun t => (t.txDone, t.txBusy, t.rxHwEn)) (step (quiet { base with irEn := true, txBusy := true, txIdx := 9, txCnt := 3, rxIntent := true })) =
      some (true, false, true) := by decide

/-- R201: data bit 7 is sampled at bit 8, offset `MID` = 2. -/
theorem test_sample_bit_seven :
    look State.rxShift (step (quiet { base with irEn := true, rxHwEn := true, rxBusy := true, rxIdx := 8, rxCnt := 1 })) =
      some 0x80#8 := by decide

/-- R202, R203, R204. -/
theorem test_receive_completes :
    look (fun t => (t.rxData, t.irqRx, t.rxBusy)) (step (quiet { base with
      irEn := true, rxHwEn := true, rxhReg := true, rxBusy := true, rxIdx := 9, rxCnt := 1, rxShift := 0x5A#8 })) =
      some (0x5A#8, true, false) := by decide

/-- R130, R131, R196 under `TEST`. -/
theorem test_slow_tick_push :
    look (fun t => (t.evSlow, t.provTake, t.txData, t.rxHwEn)) (step { base with
      tickEn := true, irEn := true, txpReg := true, rxHwEn := true, slowSlot := .hIrtx, preCnt := 1, baseCnt := 2, slowCnt := 9, inputs := [{ idleInput with provByte := 0xC5#8 }] }) =
      some (true, true, 0xC5#8, false) := by decide

/-! ## Scripts (R90 to R92) -/

/-- R90. -/
theorem test_asmText : asmText (.setChannel Channel.green true) = "SET_CHANNEL GREEN, 1" := by decide

/-- R92. -/
theorem test_script_inputs :
    (scriptInputs [.reset, .prov 0xC5#8, .rxIdle false, .wait 1, .rxBits [true]]).map (fun i => (i.rst, i.rxLine, i.provByte)) =
      [(true, true, 0#8), (false, false, 0xC5#8), (false, true, 0xC5#8)] := by decide

/-- R92: the line of `d + 1` cycles ago, 1 before cycle 0. -/
theorem test_script_echo :
    echoInput 0 [false] idleInput = { idleInput with rxLine := false } ∧
      echoInput 1 [false] idleInput = idleInput := by decide

/-! ## Witnesses: encoding -/

theorem witness_DecodeFollowsRule86AndEncodeInvertsIt :
    (3#8).toNat ≤ 3 ∧ 3 < (4#8).toNat ∧ (1#8).toNat ≤ 1 ∧ 1 < (2#8).toNat ∧
      ((0x82#8).extractLsb' 2 5 = 0#5 ∧ (0x82#8).extractLsb' 0 2 ≠ 3#2) ∧
      ¬((0x83#8).extractLsb' 2 5 = 0#5 ∧ (0x83#8).extractLsb' 0 2 ≠ 3#2) ∧
      0x39#8 ∉ [0x00#8, 0x10#8, 0x11#8, 0x12#8, 0x20#8, 0x21#8, 0x22#8, 0x23#8, 0x30#8, 0x31#8, 0x32#8,
        0x33#8, 0x34#8, 0x35#8, 0x36#8, 0x37#8, 0x38#8] ∧
      (Instr.setChannel Channel.white true).wellFormed = true ∧
      decode 0x2182#16 = .command (.setChannel Channel.white true) := by decide

/-- A state whose next cycle presents the word `w`. -/
def wordState (s : State) (w : Word) : State := { s with inputs := [presentWord w idleInput] }

theorem witness_ReservedWordsFaultAndChangeNothingElse :
    (wordState up 0x2183#16).cfg.wellFormed = true ∧ (currentInput (wordState up 0x2183#16)).rst = false ∧
      (currentInput (wordState up 0x2183#16)).cmdValid = true ∧
      isReserved (currentInput (wordState up 0x2183#16)).cmd = true := by decide

theorem witness_DecodedWordSelectsItsTableRow :
    decode 0x2182#16 = .command (.setChannel Channel.white true) ∧
      (rowOf (.setChannel 0#2 false)).selectedBy 0x2182#16 = true ∧
      ((rowOf (.setChannel 0#2 false)).mnemonic = "SET_CHANNEL" → (0x2182#16).extractLsb' 0 2 ≠ 3#2) ∧
      rowOf (.setChannel 0#2 false) ∈ opcodeTable := by decide

theorem witness_PseudoCommandsExpandToTheirWords : Channel.white ≠ 3#2 := by decide

/-! ## Witnesses: the step and reset -/

/-- A cycle of reset. -/
def resetting : State := { up with inputs := [{ cmdIn .irInit with rst := true }] }

theorem witness_StepRunsSubStepsThenDecodedCommand_reset :
    resetting.cfg.wellFormed = true ∧ (currentInput resetting).rst = true := by decide

theorem witness_StepRunsSubStepsThenDecodedCommand_command :
    (withCmd up .irInit).cfg.wellFormed = true ∧ (currentInput (withCmd up .irInit)).rst = false ∧
      (currentInput (withCmd up .irInit)).cmdValid = true ∧
      decode (currentInput (withCmd up .irInit)).cmd = .command .irInit := by decide

theorem witness_StepRunsSubStepsThenDecodedCommand_none :
    (currentInput (quiet up)).rst = false ∧ (currentInput (quiet up)).cmdValid = false := by decide

theorem witness_PlacedWordIsPresentedInTheNextCycle :
    (Instr.setChannel Channel.white true).wellFormed = true := by decide

theorem witness_EveryCycleCompletes : up.cfg.wellFormed = true ∧ State.reset.cfg.wellFormed = true := by decide

theorem witness_ResetCycleGivesResetState :
    resetting.cfg.wellFormed = true ∧ (currentInput resetting).rst = true := by decide

theorem witness_BlockStaysInResetStateUntilCommanded :
    tiny.wellFormed = true ∧ 2 ≤ [idleInput, { idleInput with rxLine := false }].length ∧
      ∀ inp ∈ [idleInput, { idleInput with rxLine := false }].take 2, inp.rst = false ∧
      inp.cmdValid = false := by decide

/-- A state in whose next step the transmitter's frame ends, an incoming byte completes, and a tick that is both fast
and slow falls. -/
def eventful (fast slow : HandlerId) : State :=
  { up with fastSlot := fast, slowSlot := slow, txBusy := true, txIdx := 9, txCnt := 1, rxHwEn := true, rxBusy := true,
            rxIdx := 9, rxCnt := 0, rxhReg := true, txpReg := true, inputs := [idleInput] }

theorem witness_StrobesShowExactlyTheEventsOfTheStep_ext :
    ∃ t, (currentInput (eventful .hExt .hExt)).rst = false ∧ step (eventful .hExt .hExt) = .next t ∧
      t.evFast = true ∧ t.evSlow = true ∧ t.irqFast = true ∧ t.irqSlow = true ∧ t.txDone = true ∧
      t.irqRx = true := ⟨_, by decide, rfl, by decide⟩

theorem witness_StrobesShowExactlyTheEventsOfTheStep_irtx :
    ∃ t, step (eventful .hExt .hIrtx) = .next t ∧ t.provTake = true := ⟨_, rfl, by decide⟩

theorem witness_StrobesShowExactlyTheEventsOfTheStep_none :
    ∃ t, (currentInput (quiet base)).rst = false ∧ step (quiet base) = .next t ∧
      t.evFast = false := ⟨_, by decide, rfl, by decide⟩

theorem witness_FaultFlagIsSetByReservedWordsAndClearedByResetOnly :
    ∃ t, step (wordState up 0x0001#16) = .next t ∧ t.cmdFault = true := ⟨_, rfl, by decide⟩

theorem witness_FaultFlagIsSetByReservedWordsAndClearedByResetOnly_reset :
    ∃ t, step { resetting with cmdFault := true } = .next t ∧ t.cmdFault = false := ⟨_, rfl, by decide⟩

/-! ## Witnesses: commands -/

theorem witness_NopChangesNothing :
    (1#8 : Byte) ≠ 0#8 ∧ (withCmd up .nop).inputs = cmdIn .nop :: [] ∧ (cmdIn .nop).cmdValid = true ∧
      (cmdIn .nop).cmd = 0x0000#16 := by decide

theorem witness_TickSchedulerCommandsComplete : ∃ t, up.tickEn = true ∧ exec .allOff up = .next t := ⟨_, rfl, rfl⟩

theorem witness_LightInitCompletes :
    ∃ t, up.tickEn = true ∧ up.lightEn = true ∧ base.lightEn = false ∧
      exec .lightInit (State.resetWith tiny) = .next t := ⟨_, rfl, rfl, rfl, rfl⟩

theorem witness_LightInitCompletes_tick :
    ∃ t, exec .tickInit base = .next t ∧ (1#8 : Byte) ≠ 0#8 := ⟨_, rfl, by decide⟩

theorem witness_SetChannelWritesOneMaskBit :
    Channel.white ≠ 3#2 ∧ (7#3 : Mask).getLsbD Channel.white.toNat = true ∧
      ({ up with gate := true } : State).lightEn = true ∧ ({ up with gate := true } : State).gate = true ∧
      up.gate = false ∧
      ((0x83#8).extractLsb' 0 2 = 3#2 ∨ (0x83#8).extractLsb' 2 5 ≠ 0#5) := by decide

theorem witness_AllOffClearsTheMask : (255#8 : Byte) ≠ 0#8 := by decide

theorem witness_SetBrightStoresTheClampedValue : 100 ≤ 100 ∧ 100 ≤ 255 := by decide

theorem witness_IrInitCompletes :
    ∃ t, up.tickEn = true ∧ up.irEn = true ∧ exec .txStop up = .next t := ⟨_, rfl, rfl, rfl⟩

theorem witness_ReceiveEnableCommandsComplete : base.irEn = false ∧ base.rxIntent = false := by decide

theorem witness_RegisterReceiveHandlerCompletes :
    1 < (2#8 : Byte).toNat ∧ base.rxhReg = false ∧ ({ base with rxhReg := true } : State).rxhReg = true := by decide

theorem witness_RegisterTransmitProviderCompletes :
    ∃ t u, base.txpReg = false ∧ exec (.regTxp true) up = .next t ∧
      exec (.transmit 0xA5#8) t = .next u := ⟨_, _, rfl, rfl, rfl⟩

theorem witness_PushIsAcceptedWhenIdleAndDroppedOtherwise :
    up.irEn = true ∧ up.txBusy = false ∧ (base.irEn = false ∨ base.txBusy = true) ∧
      frameEnds (eventful .hNone .hNone) ∧ (eventful .hNone .hNone).irEn = true := by decide

theorem witness_PeriodicStepSuspendsReceiveAndPushes :
    ({ up with txpReg := true } : State).irEn = true ∧ ({ up with txpReg := true } : State).txpReg = true ∧
      ({ up with txpReg := true } : State).txBusy = false ∧ (eventful .hNone .hNone).txBusy = true ∧
      (up.irEn = false ∨ up.txpReg = false) ∧ frameEnds { eventful .hNone .hNone with rxIntent := true } := by decide

theorem witness_CommandsLeaveEngineFieldsUnchanged :
    ∃ t, exec (.transmit 0xA5#8) up = .next t ∧ t.txBusy = true := ⟨_, rfl, rfl⟩

theorem witness_EnginesLeaveHostSettingsUnchanged :
    (engines idleInput (eventful .hExt .hExt)).txDone = true := by decide

theorem witness_CommandsAreIdempotent : ∃ t, exec (.transmit 0xA5#8) up = .next t ∧ t.txData = 0xA5#8 := ⟨_, rfl, rfl⟩

theorem witness_InitialisationsCommute :
    ∃ t u, Instr.lightInit ∈ [Instr.tickInit, .lightInit, .irInit] ∧
      Instr.irInit ∈ [Instr.tickInit, .lightInit, .irInit] ∧
      exec .lightInit base = .next t ∧ exec .irInit t = .next u := ⟨_, _, by decide, by decide, rfl, rfl⟩

/-! ## Witnesses: outputs and invariants -/

/-- The reset state of `tiny` meets the invariant. -/
theorem inv_reset_tiny :
    (State.resetWith tiny).Inv := ⟨by decide, ⟨by decide, by decide, by decide, by decide, by decide, by decide, by decide⟩,
    ⟨by decide, by decide, by decide, by decide, by decide, by decide⟩, by decide⟩

theorem witness_SerialLineShowsTheBitInFlight :
    ({ up with txBusy := true, txIdx := 8 } : State).txBusy = true ∧
      1 ≤ ({ up with txBusy := true, txIdx := 8 } : State).txIdx ∧
      ({ up with txBusy := true, txIdx := 8 } : State).txIdx ≤ 8 ∧ up.txBusy = false ∧
      ({ up with txBusy := true, txIdx := 9 } : State).txIdx = 9 := by decide

theorem witness_SerialLineShowsTheBitInFlight_off :
    (State.resetWith tiny).Laws36 ∧ (State.resetWith tiny).irEn = false := ⟨inv_reset_tiny.laws, rfl⟩

theorem witness_LampPinsShowMaskThroughGate :
    ({ up with gate := true } : State).lightEn = true ∧ ({ up with gate := true } : State).gate = true ∧
      (base.lightEn = false ∨ base.gate = false) := by decide

theorem witness_ModulatedSignalIsCarrierDuringMark :
    txLine up = true ∧ txLine { up with txBusy := true } = false := by decide

theorem witness_ModulatedSignalIsCarrierDuringMark_off :
    (State.resetWith tiny).Laws36 ∧ (State.resetWith tiny).irEn = false := ⟨inv_reset_tiny.laws, rfl⟩

theorem witness_CarrierHalfRoundsTowardZero :
    ({ tiny with fClk := 75999 } : Cfg).fClk < 76000 ∧ 76000 ≤ tiny.fClk ∧ tiny.fClk = 76000 := by decide

theorem witness_EveryStepKeepsTheInvariant :
    ∃ t, (quiet (State.resetWith tiny)).Inv ∧
      step (quiet (State.resetWith tiny)) = .next t := ⟨_, ⟨inv_reset_tiny.cfg_ok, ⟨by decide, by decide, by decide, by decide, by decide, by decide, by decide⟩,
    ⟨by decide, by decide, by decide, by decide, by decide, by decide⟩, by decide⟩, rfl⟩

/-- A state in which everything happens at once meets the invariant. -/
theorem inv_eventful :
    (eventful .hPwm .hIrtx).Inv := ⟨by decide, ⟨by decide, by decide, by decide, by decide, by decide, by decide, by decide⟩,
    ⟨by decide, by decide, by decide, by decide, by decide, by decide⟩, by decide⟩

theorem witness_EveryStepKeepsTheInvariant_eventful :
    ∃ t, (eventful .hPwm .hIrtx).Inv ∧ step (eventful .hPwm .hIrtx) = .next t := ⟨_, inv_eventful, rfl⟩

theorem witness_ResetStateMeetsTheInvariant : tiny.wellFormed = true := by decide

theorem witness_LawsOfRule36HoldInEveryRun :
    ∃ t u, tiny.wellFormed = true ∧
      run 1 { State.resetWith tiny with inputs := [cmdIn .lightInit, cmdIn .irInit] } = .next t ∧ step t = .next u ∧
      (currentInput t).rst = false ∧ t.tickEn = true ∧
      t.lightEn = true := ⟨_, _, by decide, rfl, rfl, by decide, by decide, by decide⟩

/-! ## Witnesses: tick scheduler -/

/-- The reset state of `tiny` with an initialisation to come and a quiet cycle after it. -/
def booting (i : Instr) : State := { State.resetWith tiny with inputs := [cmdIn i, idleInput] }

theorem inv_booting_tickInit :
    (booting .tickInit).Inv := ⟨by decide, ⟨by decide, by decide, by decide, by decide, by decide, by decide, by decide⟩,
    ⟨by decide, by decide, by decide, by decide, by decide, by decide⟩, by decide⟩

theorem witness_TickChainFollowsItsClosedForm_tickInit :
    (booting .tickInit).Inv ∧ (booting .tickInit).tickEn = false ∧
      (booting .tickInit).inputs = cmdIn .tickInit :: [idleInput] ∧
      (cmdIn .tickInit).rst = false ∧ presents (cmdIn .tickInit) .tickInit ∧ 1 ≤ [idleInput].length ∧
      ∀ r ∈ [idleInput].take 1, r.rst = false := ⟨inv_booting_tickInit, by decide, rfl, by decide, by decide, by decide, by decide⟩

theorem inv_booting_lightInit :
    (booting .lightInit).Inv := ⟨by decide, ⟨by decide, by decide, by decide, by decide, by decide, by decide, by decide⟩,
    ⟨by decide, by decide, by decide, by decide, by decide, by decide⟩, by decide⟩

theorem witness_TickChainFollowsItsClosedForm_lightInit :
    (booting .lightInit).Inv ∧ (booting .lightInit).tickEn = false ∧
      (booting .lightInit).inputs = cmdIn .lightInit :: [idleInput] ∧
      (cmdIn .lightInit).rst = false ∧ presents (cmdIn .lightInit) .lightInit ∧ 1 ≤ [idleInput].length ∧
      ∀ r ∈ [idleInput].take 1, r.rst = false := ⟨inv_booting_lightInit, by decide, rfl, by decide, by decide, by decide, by decide⟩

theorem inv_booting_irInit :
    (booting .irInit).Inv := ⟨by decide, ⟨by decide, by decide, by decide, by decide, by decide, by decide, by decide⟩,
    ⟨by decide, by decide, by decide, by decide, by decide, by decide⟩, by decide⟩

theorem witness_TickChainFollowsItsClosedForm_irInit :
    (booting .irInit).Inv ∧ (booting .irInit).tickEn = false ∧
      (booting .irInit).inputs = cmdIn .irInit :: [idleInput] ∧
      (cmdIn .irInit).rst = false ∧ presents (cmdIn .irInit) .irInit ∧ 1 ≤ [idleInput].length ∧
      ∀ r ∈ [idleInput].take 1, r.rst = false := ⟨inv_booting_irInit, by decide, rfl, by decide, by decide, by decide, by decide⟩

theorem witness_BothSlotsAreServedFastThenSlow_pwm :
    (eventful .hPwm .hPwm).cfg.wellFormed = true ∧ slowTickDue (eventful .hPwm .hPwm) ∧
      (currentInput (eventful .hPwm .hPwm)).rst = false ∧ (eventful .hPwm .hPwm).fastSlot = .hPwm ∧
      (eventful .hPwm .hPwm).slowSlot = .hPwm := by decide

/-- A tick that is both fast and slow, the periodic step in both slots, the transmitter idle. -/
def pushing : State := { up with fastSlot := .hIrtx, slowSlot := .hIrtx, txpReg := true, inputs := [idleInput] }

theorem witness_BothSlotsAreServedFastThenSlow_irtx :
    pushing.cfg.wellFormed = true ∧ slowTickDue pushing ∧ (currentInput pushing).rst = false ∧
      pushing.fastSlot = .hIrtx ∧
      pushing.slowSlot = .hIrtx ∧ pushing.irEn = true ∧ pushing.txpReg = true ∧ pushing.txBusy = false := by decide

theorem witness_BothSlotsAreServedFastThenSlow_command :
    slowTickDue (withCmd (eventful .hExt .hExt) (.regFast .hNone)) ∧
      (withCmd (eventful .hExt .hExt) (.regFast .hNone)).fastSlot = .hExt ∧
      presents (currentInput (withCmd (eventful .hExt .hExt) (.regFast .hNone))) (.regFast .hNone) := by decide

/-! ## Witnesses: light controller -/

/-- `n` quiet cycles to come. -/
def quietFor (n : Nat) (s : State) : State := { s with inputs := List.replicate n idleInput }

/-- Quiet cycles keep any promise that a quiet cycle keeps. -/
theorem nextInputs_quietFor (n : Nat) (s : State) (p : Input → Prop) (h : p idleInput) : (quietFor n s).nextInputs n p := by
  refine ⟨by simp [quietFor], fun inp hi => ?_⟩
  have := List.eq_of_mem_replicate (List.mem_of_mem_take hi)
  exact this ▸ h

/-- One tick before a wrap that two `PwmStep` calls of one cycle pass over (R155), in the steady state of R151. -/
def passing : State :=
  quietFor 3 { up with fastSlot := .hPwm, slowSlot := .hPwm, brightness := 30, pwmCnt := 99 }

theorem witness_GateIsOpenExactlyBelowTheBrightness_passing :
    passing.cfg.wellFormed = true ∧
      passing.pwmCnt ≤ 99 ∧
      (passing.gate = true ↔ passing.pwmCnt < passing.brightness) ∧
      passing.nextInputs 3
        (fun inp => inp.rst = false ∧ ∀ b, presents inp (.setBright b) → clampBrightness b = passing.brightness) := 
  ⟨by decide, by decide, by decide, nextInputs_quietFor 3 _ _ ⟨rfl, fun _ hb => absurd hb.1 (by decide)⟩⟩

theorem witness_GateIsOpenExactlyBelowTheBrightness :
    (quietFor 3 { up with brightness := 30, gate := true }).cfg.wellFormed = true ∧
      (quietFor 3 { up with brightness := 30, gate := true }).pwmCnt ≤ 99 ∧
      ((quietFor 3 { up with brightness := 30, gate := true }).gate = true ↔ (quietFor 3 { up with brightness := 30, gate := true }).pwmCnt < (quietFor 3 { up with brightness := 30, gate := true }).brightness) ∧
      (quietFor 3 { up with brightness := 30, gate := true }).nextInputs 3
        (fun inp => inp.rst = false ∧
      ∀ b, presents inp (.setBright b) → clampBrightness b = (quietFor 3 { up with brightness := 30, gate := true }).brightness) := 
  ⟨by decide, by decide, by decide, nextInputs_quietFor 3 _ _ ⟨rfl, fun _ hb => absurd hb.1 (by decide)⟩⟩

theorem witness_GateIsOpenExactlyBelowTheBrightness_two_calls :
    passing.pwmCnt ≤ 99 ∧ 100 ≤ passing.pwmCnt + 2 := by decide

theorem witness_GateIsOpenExactlyBelowTheBrightness_wrap :
    (pwmStep { base with pwmCnt := 99 }).pwmCnt = 0 := by decide

theorem witness_BrightnessEndsAreAlwaysOffAndAlwaysOn :
    base.brightness = 0 ∧ (pwmStep { base with pwmCnt := 99 }).pwmCnt = 0 ∧ up.cfg.wellFormed = true ∧
      up.brightness = 0 ∧
      up.gate = false := by decide

theorem witness_BrightnessEndsAreAlwaysOffAndAlwaysOn_on :
    (quietFor 3 { up with brightness := 100, gate := true }).brightness = 100 ∧
      (quietFor 3 { up with brightness := 100, gate := true }).gate = true ∧
      (quietFor 3 { up with brightness := 100, gate := true }).nextInputs 3 (fun inp => inp.rst = false ∧
      ∀ b, presents inp (.setBright b) → clampBrightness b = 100) := 
  ⟨rfl, rfl, nextInputs_quietFor 3 _ _ ⟨rfl, fun _ hb => absurd hb.1 (by decide)⟩⟩

theorem witness_BrightnessEndsAreAlwaysOffAndAlwaysOn_off :
    (quietFor 3 up).nextInputs 3 (fun inp => inp.rst = false ∧
      ∀ b, presents inp (.setBright b) → clampBrightness b = 0) := 
  nextInputs_quietFor 3 _ _ ⟨rfl, fun _ hb => absurd hb.1 (by decide)⟩

theorem witness_BrightnessChangeTakesEffectAtPwmEvents :
    ∃ s, base.pwmCnt ≤ 99 ∧ exec (.setBright 30#8) base = .next s ∧ base.pwmCnt < clampBrightness 30#8 ∧
      base.pwmCnt + 29 < clampBrightness 30#8 ∧ clampBrightness 30#8 ≤ base.pwmCnt + 99 ∧
      base.pwmCnt + 99 ≤ 99 := ⟨_, by decide, rfl, by decide, by decide, by decide, by decide⟩

theorem witness_BrightnessChangeTakesEffectAtPwmEvents_below :
    ∃ s, exec (.setBright 99#8) { base with pwmCnt := 99 } = .next s ∧
      clampBrightness 99#8 ≤ ({ base with pwmCnt := 99 } : State).pwmCnt := ⟨_, rfl, by decide⟩

theorem witness_GateFirstOpensAtTheHundredthPwmStep :
    ({ base with brightness := 1 } : State).pwmCnt = 0 ∧ ({ base with brightness := 1 } : State).gate = false ∧
      0 < ({ base with brightness := 1 } : State).brightness := by decide

/-! ## Witnesses: IR carrier -/

theorem witness_CarrierFollowsItsClosedForm :
    (booting .irInit).Inv ∧ (booting .irInit).irEn = false ∧ (booting .irInit).inputs = cmdIn .irInit :: [idleInput] ∧
      (cmdIn .irInit).rst = false ∧ presents (cmdIn .irInit) .irInit ∧ 1 ≤ [idleInput].length ∧
      ∀ r ∈ [idleInput].take 1, r.rst = false := ⟨inv_booting_irInit, by decide, rfl, by decide, by decide, by decide, by decide⟩

theorem witness_CarrierIsFreeRunning :
    up.cfg.wellFormed = true ∧ up.irEn = true ∧ (withCmd { up with txBusy := true } .rxEnable).irEn = true ∧
      (withCmd { up with txBusy := true } .rxEnable).cfg = (quiet up).cfg ∧
      (withCmd { up with txBusy := true } .rxEnable).carCnt = (quiet up).carCnt ∧
      (withCmd { up with txBusy := true } .rxEnable).carrier = (quiet up).carrier ∧
      (quiet up).nextInputs 1 (fun inp => inp.rst = false) ∧
      (withCmd { up with txBusy := true } .rxEnable).nextInputs 1 (fun inp => inp.rst = false) := by decide

/-! ## Witnesses: IR framer -/

/-- A frame just pushed, receive suspended with intent, twenty quiet cycles (ten bit times) to come. -/
def sending : State :=
  quietFor 20 { up with txBusy := true, txData := 0xA5#8, rxIntent := true }

theorem witness_FrameOccupiesTenBitTimes :
    sending.cfg.wellFormed = true ∧ sending.txBusy = true ∧ sending.txIdx = 0 ∧ sending.txCnt = 0 ∧
      sending.txData = 0xA5#8 ∧
      sending.nextInputs (10 * sending.cfg.bitCycles) (fun inp => inp.rst = false) := by decide

theorem witness_ReceiverIsDeafDuringOwnFrameOnly :
    sending.cfg.wellFormed = true ∧ sending.txBusy = true ∧ sending.txIdx = 0 ∧ sending.txCnt = 0 ∧
      sending.rxHwEn = false ∧ sending.rxIntent = true ∧
      sending.nextInputs (10 * sending.cfg.bitCycles)
        (fun inp => inp.rst = false ∧ ¬presents inp .rxEnable ∧ ¬presents inp .rxDisable) := by decide

/-- An enabled idle receiver with the frame of 0xA5 coming in. -/
def listening : State := { up with rxHwEn := true, rxIntent := true, rxhReg := true, inputs := frameIns 0xA5#8 }

/-- The same with a provider registered and the periodic loop running, the slow tick too far away to fall in the frame. -/
def listeningWithProvider : State :=
  { listening with cfg := { tiny with slowDiv := 25 }, txpReg := true, slowSlot := .hIrtx }

/-- The same at the end of an own frame that restores receive in the cycle of the start edge (R197). -/
def listeningAtFrameEnd : State :=
  { listening with rxHwEn := false, txBusy := true, txIdx := 9, txCnt := 1 }

/-- `prov_take` after each of the next `n` steps, one step after another. -/
def provTakes (n : Nat) (s : State) : List Bool :=
  match n with
  | 0 => []
  | k + 1 =>
    match step s with
    | .next t => t.provTake :: provTakes k t
    | .fault _ => []
    | .refused _ => []

/-- `provTakes` reads off `prov_take` along the run. -/
theorem provTakes_run (n : Nat) : ∀ (s t : State) (k : Nat), k < n → run (k + 1) s = .next t →
    (provTakes n s)[k]? = some t.provTake := by
  induction n with
  | zero => intro s t k hk; omega
  | succ n ih =>
    intro s t k hk h
    cases hs : step s with
    | next u =>
      have h1 : run 1 s = .next u := by simp [run, hs]
      have h2 : run k u = .next t := by rw [← run_add 1 k h1, Nat.add_comm]; exact h
      cases k with
      | zero => simp only [run, Host.Outcome.next.injEq] at h2; simp [provTakes, hs, h2]
      | succ k => simpa [provTakes, hs] using ih u t k (by omega) h2
    | fault r => cases r
    | refused r =>
      exfalso
      have h1 : ∀ m, run (m + 1) s = .refused r := by
        intro m
        induction m with
        | zero => simp [run, hs]
        | succ m hm => rw [run, hm]
      rw [h1 k] at h
      cases h

/-- A window in which no periodic step acts, checked step by step. -/
theorem noPeriodicStep {n : Nat} {s : State} (h : provTakes n s = List.replicate n false) :
    ∀ k t, k < n → run (k + 1) s = .next t → t.provTake = false := by
  intro k t hk hr
  have := provTakes_run n s t k hk hr
  rw [h, List.getElem?_replicate_of_lt hk] at this
  exact (Option.some.inj this).symm

theorem witness_FrameIsAssembledFromItsEightSamples :
    listening.cfg.wellFormed = true ∧ receiverOn listening ∧ listening.rxBusy = false ∧ listening.rxPrev = true ∧
      listening.nextInputs (9 * listening.cfg.bitCycles + sampleMid listening.cfg + 1)
        (fun inp => inp.rst = false ∧ ¬presents inp .rxDisable ∧ ¬presents inp .rxSuspend) ∧
      (∀ k t, k < 9 * listening.cfg.bitCycles + sampleMid listening.cfg + 1 → run (k + 1) listening = .next t → t.provTake = false) ∧
      (listening.inputs[0]?).map Input.rxLine = some false ∧
      ∀ i, i < 8 → (listening.inputs[(i + 1) * listening.cfg.bitCycles + sampleMid listening.cfg]?).map Input.rxLine =
        some ((0xA5#8).getLsbD i) := 
  ⟨by decide, by decide, by decide, by decide, by decide, noPeriodicStep (by decide), by decide, by decide⟩

theorem witness_WellFormedFrameIsReceivedExactly :
    listening.cfg.wellFormed = true ∧ receiverOn listening ∧ listening.rxBusy = false ∧ listening.rxPrev = true ∧
      listening.nextInputs (9 * listening.cfg.bitCycles + sampleMid listening.cfg + 1)
        (fun inp => inp.rst = false ∧ ¬presents inp .rxDisable ∧ ¬presents inp .rxSuspend) ∧
      (∀ k t, k < 9 * listening.cfg.bitCycles + sampleMid listening.cfg + 1 → run (k + 1) listening = .next t → t.provTake = false) ∧
      ∀ k, k < 9 * listening.cfg.bitCycles + sampleMid listening.cfg + 1 →
        (listening.inputs[k]?).map Input.rxLine = some ((frameBits 0xA5#8).getLsbD (k / listening.cfg.bitCycles)) := 
  ⟨by decide, by decide, by decide, by decide, by decide, noPeriodicStep (by decide), by decide⟩

theorem witness_FrameIsAssembledFromItsEightSamples_provider :
    listeningWithProvider.cfg.wellFormed = true ∧ receiverOn listeningWithProvider ∧ listeningWithProvider.rxBusy = false ∧
      listeningWithProvider.rxPrev = true ∧
      listeningWithProvider.nextInputs (9 * listeningWithProvider.cfg.bitCycles + sampleMid listeningWithProvider.cfg + 1)
        (fun inp => inp.rst = false ∧ ¬presents inp .rxDisable ∧ ¬presents inp .rxSuspend) ∧
      (∀ k t, k < 9 * listeningWithProvider.cfg.bitCycles + sampleMid listeningWithProvider.cfg + 1 → run (k + 1) listeningWithProvider = .next t → t.provTake = false) ∧
      (listeningWithProvider.inputs[0]?).map Input.rxLine = some false ∧
      ∀ i, i < 8 → (listeningWithProvider.inputs[(i + 1) * listeningWithProvider.cfg.bitCycles + sampleMid listeningWithProvider.cfg]?).map Input.rxLine =
        some ((0xA5#8).getLsbD i) := 
  ⟨by decide, by decide, by decide, by decide, by decide, noPeriodicStep (by decide), by decide, by decide⟩

theorem witness_WellFormedFrameIsReceivedExactly_provider :
    listeningWithProvider.cfg.wellFormed = true ∧ receiverOn listeningWithProvider ∧ listeningWithProvider.rxBusy = false ∧
      listeningWithProvider.rxPrev = true ∧
      listeningWithProvider.nextInputs (9 * listeningWithProvider.cfg.bitCycles + sampleMid listeningWithProvider.cfg + 1)
        (fun inp => inp.rst = false ∧ ¬presents inp .rxDisable ∧ ¬presents inp .rxSuspend) ∧
      (∀ k t, k < 9 * listeningWithProvider.cfg.bitCycles + sampleMid listeningWithProvider.cfg + 1 → run (k + 1) listeningWithProvider = .next t → t.provTake = false) ∧
      ∀ k, k < 9 * listeningWithProvider.cfg.bitCycles + sampleMid listeningWithProvider.cfg + 1 →
        (listeningWithProvider.inputs[k]?).map Input.rxLine =
      some ((frameBits 0xA5#8).getLsbD (k / listeningWithProvider.cfg.bitCycles)) := 
  ⟨by decide, by decide, by decide, by decide, by decide, noPeriodicStep (by decide), by decide⟩

theorem witness_FrameIsAssembledFromItsEightSamples_frame_end :
    listeningAtFrameEnd.cfg.wellFormed = true ∧ receiverOn listeningAtFrameEnd ∧ listeningAtFrameEnd.rxBusy = false ∧
      listeningAtFrameEnd.rxPrev = true ∧
      listeningAtFrameEnd.nextInputs (9 * listeningAtFrameEnd.cfg.bitCycles + sampleMid listeningAtFrameEnd.cfg + 1)
        (fun inp => inp.rst = false ∧ ¬presents inp .rxDisable ∧ ¬presents inp .rxSuspend) ∧
      (∀ k t, k < 9 * listeningAtFrameEnd.cfg.bitCycles + sampleMid listeningAtFrameEnd.cfg + 1 → run (k + 1) listeningAtFrameEnd = .next t → t.provTake = false) ∧
      (listeningAtFrameEnd.inputs[0]?).map Input.rxLine = some false ∧
      ∀ i, i < 8 → (listeningAtFrameEnd.inputs[(i + 1) * listeningAtFrameEnd.cfg.bitCycles + sampleMid listeningAtFrameEnd.cfg]?).map Input.rxLine =
        some ((0xA5#8).getLsbD i) := 
  ⟨by decide, by decide, by decide, by decide, by decide, noPeriodicStep (by decide), by decide, by decide⟩

theorem witness_WellFormedFrameIsReceivedExactly_frame_end :
    listeningAtFrameEnd.cfg.wellFormed = true ∧ receiverOn listeningAtFrameEnd ∧ listeningAtFrameEnd.rxBusy = false ∧
      listeningAtFrameEnd.rxPrev = true ∧
      listeningAtFrameEnd.nextInputs (9 * listeningAtFrameEnd.cfg.bitCycles + sampleMid listeningAtFrameEnd.cfg + 1)
        (fun inp => inp.rst = false ∧ ¬presents inp .rxDisable ∧ ¬presents inp .rxSuspend) ∧
      (∀ k t, k < 9 * listeningAtFrameEnd.cfg.bitCycles + sampleMid listeningAtFrameEnd.cfg + 1 → run (k + 1) listeningAtFrameEnd = .next t → t.provTake = false) ∧
      ∀ k, k < 9 * listeningAtFrameEnd.cfg.bitCycles + sampleMid listeningAtFrameEnd.cfg + 1 →
        (listeningAtFrameEnd.inputs[k]?).map Input.rxLine =
      some ((frameBits 0xA5#8).getLsbD (k / listeningAtFrameEnd.cfg.bitCycles)) := 
  ⟨by decide, by decide, by decide, by decide, by decide, noPeriodicStep (by decide), by decide⟩

theorem witness_FrameStartsOnlyAtAFallingEdge :
    ∃ t, (currentInput listening).rst = false ∧ step listening = .next t ∧ listening.rxBusy = false ∧
      t.rxBusy = true ∧
      receiverOn listening ∧ listening.rxPrev = true ∧ (currentInput listening).rxLine = false ∧ t.provTake = false ∧
      ¬presents (currentInput listening) .rxDisable ∧
      ¬presents (currentInput listening) .rxSuspend := ⟨_, by decide, rfl, by decide, by decide, by decide, by decide, by decide, by decide, by decide, by decide⟩

theorem witness_OnlyFrameEndOrRxEnableRestoresReceive_command :
    ∃ t, step (withCmd up .rxEnable) = .next t ∧ (withCmd up .rxEnable).rxHwEn = false ∧
      t.rxHwEn = true := ⟨_, rfl, by decide, by decide⟩

/-- The last cycle of an own frame, receive suspended with intent, a start edge on the line. -/
def ending (i : Input) : State :=
  { up with txBusy := true, txIdx := 9, txCnt := 1, rxIntent := true, inputs := [i] }

theorem witness_OnlyFrameEndOrRxEnableRestoresReceive_frame :
    ∃ t, step (ending idleInput) = .next t ∧ (ending idleInput).rxHwEn = false ∧
      t.rxHwEn = true := ⟨_, rfl, by decide, by decide⟩

theorem witness_SubStepOrderDecidesCoincidentWrites_push :
    (ending (cmdIn (.transmit 5#8))).cfg.wellFormed = true ∧ frameEnds (ending (cmdIn (.transmit 5#8))) ∧
      (ending (cmdIn (.transmit 5#8))).irEn = true ∧ (ending (cmdIn (.transmit 5#8))).txpReg = false ∧
      presents (currentInput (ending (cmdIn (.transmit 5#8)))) (.transmit 5#8) := by decide

theorem witness_SubStepOrderDecidesCoincidentWrites_edge :
    frameEnds (ending { idleInput with rxLine := false }) ∧
      (ending { idleInput with rxLine := false }).rxIntent = true ∧
      (ending { idleInput with rxLine := false }).rxBusy = false ∧
      (ending { idleInput with rxLine := false }).rxPrev = true ∧
      (currentInput (ending { idleInput with rxLine := false })).rxLine = false ∧
      (currentInput (ending { idleInput with rxLine := false })).cmdValid = false := by decide

theorem witness_SubStepOrderDecidesCoincidentWrites_suspend :
    frameEnds (ending (cmdIn .rxSuspend)) ∧
      presents (currentInput (ending (cmdIn .rxSuspend))) .rxSuspend := by decide

theorem witness_SubStepOrderDecidesCoincidentWrites_periodic :
    ∃ t, step pushing = .next t ∧ t.provTake = true ∧
      ¬presents (currentInput pushing) .rxEnable := ⟨_, rfl, by decide, by decide⟩

theorem witness_SubStepOrderDecidesCoincidentWrites_deliver :
    byteCompletes (withCmd (eventful .hNone .hNone) .rxDisable) ∧
      (withCmd (eventful .hNone .hNone) .rxDisable).rxhReg = true ∧
      presents (currentInput (withCmd (eventful .hNone .hNone) .rxDisable)) .rxDisable := by decide

theorem witness_SubStepOrderDecidesCoincidentWrites_taken :
    slowTickDue (withCmd pushing (.transmit 5#8)) ∧ (withCmd pushing (.transmit 5#8)).slowSlot = .hIrtx ∧
      (withCmd pushing (.transmit 5#8)).irEn = true ∧ (withCmd pushing (.transmit 5#8)).txpReg = true ∧
      (withCmd pushing (.transmit 5#8)).txBusy = false ∧
      presents (currentInput (withCmd pushing (.transmit 5#8))) (.transmit 5#8) := by decide

/-! ## Witnesses: outputs and the PWM step in every state -/

theorem witness_BothSlotsAreServedFastThenSlow_not_slow :
    fastTickDue { up with cfg := { tiny with slowDiv := 25 } } ∧
      ¬slowTickDue { up with cfg := { tiny with slowDiv := 25 } } ∧
      ¬fastTickDue base := by decide

theorem witness_OutputPortsShowTheFieldsOfRule54 :
    (outputs up).txReady = true ∧ up.irEn = true ∧ up.txBusy = false := by decide

theorem witness_PwmStepRunsOncePerServedSlotThatHoldsIt_none :
    base.mask = 0#3 ∧ (quiet base).cfg.wellFormed = true ∧ (currentInput (quiet base)).rst = false ∧
      ¬(fastTickDue (quiet base) ∧ (quiet base).fastSlot = .hPwm) ∧
      ¬(slowTickDue (quiet base) ∧ (quiet base).slowSlot = .hPwm) := by decide

theorem witness_PwmStepRunsOncePerServedSlotThatHoldsIt_fast :
    (eventful .hPwm .hExt).cfg.wellFormed = true ∧ (currentInput (eventful .hPwm .hExt)).rst = false ∧
      (fastTickDue (eventful .hPwm .hExt) ∧ (eventful .hPwm .hExt).fastSlot = .hPwm) ∧
      ¬(slowTickDue (eventful .hPwm .hExt) ∧ (eventful .hPwm .hExt).slowSlot = .hPwm) := by decide

theorem witness_PwmStepRunsOncePerServedSlotThatHoldsIt_slow :
    (eventful .hNone .hPwm).cfg.wellFormed = true ∧ (currentInput (eventful .hNone .hPwm)).rst = false ∧
      ¬(fastTickDue (eventful .hNone .hPwm) ∧ (eventful .hNone .hPwm).fastSlot = .hPwm) ∧
      (slowTickDue (eventful .hNone .hPwm) ∧ (eventful .hNone .hPwm).slowSlot = .hPwm) := by decide

theorem witness_PwmStepRunsOncePerServedSlotThatHoldsIt_both :
    (eventful .hPwm .hPwm).cfg.wellFormed = true ∧ (currentInput (eventful .hPwm .hPwm)).rst = false ∧
      (fastTickDue (eventful .hPwm .hPwm) ∧ (eventful .hPwm .hPwm).fastSlot = .hPwm) ∧
      (slowTickDue (eventful .hPwm .hPwm) ∧ (eventful .hPwm .hPwm).slowSlot = .hPwm) := by decide

end Tests
end Sys2Proof
end

section
/-!
PROOFS. The statements of `spec/10_state.md`: the eight laws of R36 in every run, the strobes (R34), the fault flag
(R35), reset (R40), the lamp pins (R56) and the output ports (R54). The invariant `State.Inv` is kept by each sub-step of
R100, one lemma per named update, and so by every step.
-/

namespace Sys2Proof
namespace Machine

variable {s t : State} {inp : Input} {i : Instr} {line : Bool} {prov : Byte}

/-! ### A step, taken apart -/

theorem step_with_reset (h : step s = .next t) (hr : (currentInput s).rst = true) :
    t = resetBlock (consumeInput s) := by
  rw [step_eq (cfg_wellFormed_of_step h), if_pos hr] at h
  cases h; rfl

theorem step_without_reset (h : step s = .next t) (hr : (currentInput s).rst = false) :
    commandStep (currentInput s) (engines (currentInput s) (consumeInput s)) = .next t := by
  rwa [step_eq (cfg_wellFormed_of_step h), if_neg (by simp [hr])] at h

/-- The constraints of R5, one by one. -/
theorem cfg_bounds {c : Cfg} (h : c.wellFormed = true) :
    76000 ≤ c.fClk ∧ 1 ≤ c.tickPrescale ∧ 1 ≤ c.fastCounts ∧ 1 ≤ c.slowDiv ∧ 2 ≤ c.bitCycles := by
  simpa [Cfg.wellFormed, and_assoc] using h

/-- The carrier's half period and the receiver's sample offset under the constraints of R5. -/
theorem derived_bounds {c : Cfg} (h : c.wellFormed = true) :
    1 ≤ carrierHalf c ∧ 1 ≤ sampleMid c ∧ sampleMid c < c.bitCycles := by
  obtain ⟨hf, -, -, -, hb⟩ := cfg_bounds h
  simp only [carrierHalf, sampleMid]
  omega

/-! ### Commands -/

/-- What the decoder answers is well-formed where it is a command (R84). -/
def OnlyWellFormed (d : Decoded) : Prop := ∀ i, d = .command i → i.wellFormed = true

theorem onlyWellFormed_command {j : Instr} (hj : j.wellFormed = true) : OnlyWellFormed (.command j) := by
  rintro i ⟨⟩
  exact hj

theorem onlyWellFormed_reserved (r : Reserved) : OnlyWellFormed (.reserved r) := by
  rintro i ⟨⟩

theorem decodeZ_onlyWellFormed {j : Instr} (k : Byte) (hj : j.wellFormed = true) :
    OnlyWellFormed (decodeZ j k) :=
  iteInduction (fun _ => onlyWellFormed_command hj) (fun _ => onlyWellFormed_reserved _)

theorem decodeH_onlyWellFormed {mk : HandlerId → Instr} (k : Byte) (hmk : ∀ a, (mk a).wellFormed = true) :
    OnlyWellFormed (decodeH mk k) :=
  iteInduction (fun _ => onlyWellFormed_command (hmk _)) (fun _ => onlyWellFormed_reserved _)

theorem decodeP_onlyWellFormed {mk : Bool → Instr} (k : Byte) (hmk : ∀ p, (mk p).wellFormed = true) :
    OnlyWellFormed (decodeP mk k) :=
  iteInduction (fun _ => onlyWellFormed_command (hmk _)) (fun _ => onlyWellFormed_reserved _)

/-- Format `C` rejects channel 3, which does not exist (R28). -/
theorem decodeC_onlyWellFormed (k : Byte) : OnlyWellFormed (decodeC .setChannel k) :=
  iteInduction
    (fun _ => iteInduction (fun _ => onlyWellFormed_reserved _)
      (fun hc => onlyWellFormed_command (by simpa [Instr.wellFormed] using hc)))
    (fun _ => onlyWellFormed_reserved _)

/-- The lines of R86, each by its format. -/
theorem decodeFields_onlyWellFormed (op k : Byte) : OnlyWellFormed (decodeFields op k) := by
  unfold decodeFields
  refine iteInduction (fun _ => decodeZ_onlyWellFormed k rfl) fun _ => ?_
  refine iteInduction (fun _ => decodeZ_onlyWellFormed k rfl) fun _ => ?_
  refine iteInduction (fun _ => decodeH_onlyWellFormed k fun _ => rfl) fun _ => ?_
  refine iteInduction (fun _ => decodeH_onlyWellFormed k fun _ => rfl) fun _ => ?_
  refine iteInduction (fun _ => decodeZ_onlyWellFormed k rfl) fun _ => ?_
  refine iteInduction (fun _ => decodeC_onlyWellFormed k) fun _ => ?_
  refine iteInduction (fun _ => decodeZ_onlyWellFormed k rfl) fun _ => ?_
  refine iteInduction (fun _ => onlyWellFormed_command rfl) fun _ => ?_
  refine iteInduction (fun _ => decodeZ_onlyWellFormed k rfl) fun _ => ?_
  refine iteInduction (fun _ => decodeZ_onlyWellFormed k rfl) fun _ => ?_
  refine iteInduction (fun _ => decodeZ_onlyWellFormed k rfl) fun _ => ?_
  refine iteInduction (fun _ => decodeZ_onlyWellFormed k rfl) fun _ => ?_
  refine iteInduction (fun _ => decodeP_onlyWellFormed k fun _ => rfl) fun _ => ?_
  refine iteInduction (fun _ => decodeP_onlyWellFormed k fun _ => rfl) fun _ => ?_
  refine iteInduction (fun _ => decodeZ_onlyWellFormed k rfl) fun _ => ?_
  refine iteInduction (fun _ => decodeZ_onlyWellFormed k rfl) fun _ => ?_
  exact iteInduction (fun _ => onlyWellFormed_command rfl) fun _ => onlyWellFormed_reserved _

/-- The decoder answers only well-formed commands (R84). -/
theorem decode_wellFormed {w : Word} (h : decode w = .command i) : i.wellFormed = true :=
  decodeFields_onlyWellFormed _ _ i h

/-- The seven strobes (R34) are as before. -/
structure SameStrobes (s t : State) : Prop where
  evFast : t.evFast = s.evFast
  evSlow : t.evSlow = s.evSlow
  irqFast : t.irqFast = s.irqFast
  irqSlow : t.irqSlow = s.irqSlow
  irqRx : t.irqRx = s.irqRx
  provTake : t.provTake = s.provTake
  txDone : t.txDone = s.txDone

/-- No command writes a strobe. -/
theorem exec_strobes (h : exec i s = .next t) : SameStrobes s t := by
  cases i with
  | setChannel c on =>
    simp only [exec, execSetChannel] at h
    split at h <;> cases h <;> constructor <;> rfl
  | transmit b => cases h; constructor <;> simp
  | _ => cases h; constructor <;> rfl

theorem commandStep_strobes (h : commandStep inp s = .next t) : SameStrobes s t := by
  obtain ⟨-, rfl⟩ | ⟨i, -, hi⟩ | ⟨-, -, rfl⟩ := commandStep_cases h
  · constructor <;> rfl
  · exact exec_strobes hi
  · constructor <;> rfl

/-- A well-formed command leaves the fault flag. -/
theorem exec_cmdFault (hw : i.wellFormed = true) (h : exec i s = .next t) : t.cmdFault = s.cmdFault := by
  cases i with
  | setChannel c on =>
    have hc : c ≠ 3#2 := by simpa [Instr.wellFormed] using hw
    simp only [exec, execSetChannel, if_neg hc] at h
    cases h; rfl
  | transmit b => cases h; simp
  | _ => cases h; rfl

/-- R35 for the command sub-step: `cmd_fault` is set by a reserved word and else stands. -/
theorem commandStep_cmdFault (h : commandStep inp s = .next t) :
    t.cmdFault = true ↔ s.cmdFault = true ∨ (inp.cmdValid = true ∧ isReserved inp.cmd = true) := by
  obtain ⟨hv, rfl⟩ | ⟨i, ⟨-, hd⟩, hi⟩ | ⟨hv, hres, rfl⟩ := commandStep_cases h
  · simp [hv]
  · have hnot : isReserved inp.cmd = false := by simp [isReserved, hd]
    simp [exec_cmdFault (decode_wellFormed hd) hi, hnot]
  · simp [hv, hres]

/-- Law 7 of R36 for a command: none clears an enable or the fault flag. -/
theorem exec_keeps_enables (h : exec i s = .next t) :
    (s.tickEn = true → t.tickEn = true) ∧ (s.lightEn = true → t.lightEn = true) ∧
    (s.irEn = true → t.irEn = true) ∧ (s.cmdFault = true → t.cmdFault = true) := by
  cases i with
  | setChannel c on =>
    simp only [exec, execSetChannel] at h
    split at h <;> cases h <;> simp
  | _ => cases h; simp

theorem commandStep_keeps_enables (h : commandStep inp s = .next t) :
    (s.tickEn = true → t.tickEn = true) ∧ (s.lightEn = true → t.lightEn = true) ∧
    (s.irEn = true → t.irEn = true) ∧ (s.cmdFault = true → t.cmdFault = true) := by
  obtain ⟨-, rfl⟩ | ⟨i, -, hi⟩ | ⟨-, -, rfl⟩ := commandStep_cases h
  · exact ⟨id, id, id, id⟩
  · exact exec_keeps_enables hi
  · simp

@[simp] theorem engines_tickEn : (engines inp s).tickEn = s.tickEn := by simp [engines]
@[simp] theorem engines_lightEn : (engines inp s).lightEn = s.lightEn := by simp [engines]
@[simp] theorem engines_irEn : (engines inp s).irEn = s.irEn := by simp [engines]
@[simp] theorem engines_cmdFault : (engines inp s).cmdFault = s.cmdFault := by simp [engines]

/-- Law 7 of R36: without reset no step clears an enable or the fault flag. -/
theorem step_keeps_enables (h : step s = .next t) (hr : (currentInput s).rst = false) :
    (s.tickEn = true → t.tickEn = true) ∧ (s.lightEn = true → t.lightEn = true) ∧
    (s.irEn = true → t.irEn = true) ∧ (s.cmdFault = true → t.cmdFault = true) := by
  simpa using commandStep_keeps_enables (step_without_reset h hr)

/-! ### The invariant under each named update

An update keeps `State.Inv` under the side condition that its callers meet; the fields it does not name carry over. -/

theorem State.Inv.consumeInput (h : s.Inv) : (consumeInput s).Inv :=
  ⟨h.cfg_ok, { h.laws with }, { h.counters with }, h.rx_last_bit⟩

theorem State.Inv.clearStrobes (h : s.Inv) : (clearStrobes s).Inv :=
  ⟨h.cfg_ok, { h.laws with strobes := by simp }, { h.counters with }, h.rx_last_bit⟩

/-- R40: the reset values meet the invariant, whatever inputs and step count go with them. -/
theorem inv_resetWith {c : Cfg} (hc : c.wellFormed = true) (ins : List Input) (n : Nat) :
    ({ State.resetWith c with inputs := ins, cycle := n } : State).Inv := by
  obtain ⟨-, hp, hf, hd, hb⟩ := cfg_bounds hc
  obtain ⟨hcar, -, -⟩ := derived_bounds hc
  exact ⟨hc, ⟨by simp, by simp, by simp, by simp, by simp, by simp, by simp⟩,
    ⟨hp, hf, hd, hcar, Nat.lt_of_lt_of_le Nat.zero_lt_two hb, Nat.lt_of_lt_of_le Nat.zero_lt_two hb⟩, by simp⟩

theorem State.Inv.resetBlock (h : s.Inv) : (resetBlock s).Inv := inv_resetWith h.cfg_ok s.inputs s.cycle

/-! ### The invariant: transmitter -/

theorem State.Inv.setTxCnt (h : s.Inv) {n : Nat} (hn : n < s.cfg.bitCycles) : (setTxCnt n s).Inv :=
  ⟨h.cfg_ok, { h.laws with }, { h.counters with txCnt_lt := hn }, h.rx_last_bit⟩

theorem State.Inv.setTxIdx (h : s.Inv) {n : Nat} (hn : n ≤ 9) : (setTxIdx n s).Inv :=
  have ⟨hbright, hpwm, _, hrx⟩ := h.laws.ranges
  ⟨h.cfg_ok, { h.laws with ranges := ⟨hbright, hpwm, hn, hrx⟩ }, { h.counters with }, h.rx_last_bit⟩

theorem State.Inv.endFrame (h : s.Inv) : (endFrame s).Inv :=
  have ⟨hbright, hpwm, _, hrx⟩ := h.laws.ranges
  ⟨h.cfg_ok,
    { h.laws with
      txBusy_enabled := by simp
      irEn_off := fun he => have ⟨hcnt, hcar, _, hbusy⟩ := h.laws.irEn_off he; ⟨hcnt, hcar, rfl, hbusy⟩
      ranges := ⟨hbright, hpwm, Nat.zero_le _, hrx⟩ },
    { h.counters with }, h.rx_last_bit⟩

theorem State.Inv.strobeTxDone (h : s.Inv) : (strobeTxDone s).Inv :=
  ⟨h.cfg_ok, { h.laws with }, { h.counters with }, h.rx_last_bit⟩

theorem State.Inv.setRxHwEn (h : s.Inv) : (setRxHwEn s).Inv :=
  ⟨h.cfg_ok, { h.laws with rxBusy_enabled := fun hb => ⟨rfl, (h.laws.rxBusy_enabled hb).2⟩ }, { h.counters with },
    h.rx_last_bit⟩

theorem State.Inv.txReadyHandler (h : s.Inv) : (txReadyHandler s).Inv := by
  unfold Machine.txReadyHandler
  split
  · exact h.setRxHwEn
  · exact h

/-- Law 2 of R36: a push starts a frame only in an initialised block. -/
theorem State.Inv.startFrame (h : s.Inv) (he : s.irEn = true) (b : Byte) : (startFrame b s).Inv :=
  have ⟨hbright, hpwm, _, hrx⟩ := h.laws.ranges
  ⟨h.cfg_ok,
    { h.laws with
      txBusy_enabled := fun _ => he
      irEn_off := fun hoff => absurd (hoff.symm.trans he) (by simp)
      ranges := ⟨hbright, hpwm, Nat.zero_le _, hrx⟩ },
    { h.counters with txCnt_lt := Nat.lt_of_le_of_lt (Nat.zero_le _) h.counters.txCnt_lt }, h.rx_last_bit⟩

theorem State.Inv.txPush (h : s.Inv) (b : Byte) : (txPush b s).Inv := by
  unfold Machine.txPush
  split
  next hon => exact h.startFrame hon.1 b
  · exact h

/-- `TxAdvance` (R190), by its four cases. -/
theorem State.Inv.txAdvance (h : s.Inv) : (txAdvance s).Inv := by
  have hcnt := h.counters.txCnt_lt
  have ⟨_, _, htx, _⟩ := h.laws.ranges
  by_cases hb : s.txBusy = true
  · by_cases hc : s.txCnt = s.cfg.bitCycles - 1
    · have hzero : (Machine.setTxCnt 0 s).Inv := h.setTxCnt (by omega)
      by_cases h9 : s.txIdx = 9
      · rw [txAdvance_frame_end ⟨hb, h9, hc⟩]
        exact hzero.endFrame.strobeTxDone.txReadyHandler
      · rw [txAdvance_next_bit hb hc h9]
        exact hzero.setTxIdx (by omega)
    · rw [txAdvance_within_bit hb hc]
      exact h.setTxCnt (by omega)
  · rwa [txAdvance_idle (by simpa using hb)]

/-! ### The invariant: receiver -/

/-- Law 1 of R36: a disabled receiver abandons the frame it was assembling (R187). -/
theorem State.Inv.rxHwDisable (h : s.Inv) : (rxHwDisable s).Inv :=
  ⟨h.cfg_ok,
    { h.laws with
      rxBusy_enabled := by simp
      irEn_off := fun he => have ⟨hcnt, hcar, htx, _⟩ := h.laws.irEn_off he; ⟨hcnt, hcar, htx, rfl⟩ },
    { h.counters with }, h.rx_last_bit⟩

theorem State.Inv.setRxPos (h : s.Inv) {idx n : Nat} (hidx : idx ≤ 9) (hn : n < s.cfg.bitCycles)
    (hlast : idx = 9 → n < sampleMid s.cfg) : (setRxPos idx n s).Inv :=
  have ⟨hbright, hpwm, htx, _⟩ := h.laws.ranges
  ⟨h.cfg_ok, { h.laws with ranges := ⟨hbright, hpwm, htx, hidx⟩ }, { h.counters with rxCnt_lt := hn }, hlast⟩

theorem State.Inv.setRxBusy (h : s.Inv) (hi : s.irEn = true) (hr : s.rxHwEn = true) : (setRxBusy s).Inv :=
  ⟨h.cfg_ok,
    { h.laws with
      rxBusy_enabled := fun _ => ⟨hr, hi⟩
      irEn_off := fun hoff => absurd (hoff.symm.trans hi) (by simp) },
    { h.counters with }, h.rx_last_bit⟩

theorem State.Inv.setRxPrev (h : s.Inv) (line : Bool) : (setRxPrev line s).Inv :=
  ⟨h.cfg_ok, { h.laws with }, { h.counters with }, h.rx_last_bit⟩

theorem State.Inv.storeRxBit (h : s.Inv) (n : Nat) (line : Bool) : (storeRxBit n line s).Inv :=
  ⟨h.cfg_ok, { h.laws with }, { h.counters with }, h.rx_last_bit⟩

theorem State.Inv.rxStore (h : s.Inv) (line : Bool) : (rxStore line s).Inv := by
  unfold Machine.rxStore
  split
  · exact h.storeRxBit _ line
  · exact h

theorem State.Inv.strobeIrqRx (h : s.Inv) : (strobeIrqRx s).Inv :=
  ⟨h.cfg_ok, { h.laws with }, { h.counters with }, h.rx_last_bit⟩

theorem State.Inv.rxStart (h : s.Inv) (hi : s.irEn = true) (hr : s.rxHwEn = true) (line : Bool) :
    (rxStart line s).Inv := by
  have hcnt := h.counters.rxCnt_lt
  unfold Machine.rxStart
  split
  · exact (h.setRxBusy hi hr).setRxPos (Nat.zero_le _) (Nat.zero_lt_of_lt hcnt) (by simp)
  · exact h

/-- The next cycle of the bit clock is the middle of the stop bit (R202). -/
abbrev stopBitMidNext (s : State) : Prop := s.rxIdx = 9 ∧ s.rxCnt + 1 = sampleMid s.cfg

/-- The bit clock stands at the middle of the stop bit exactly when it was one cycle before it: the middle of a bit is
not its first cycle. -/
theorem rxCount_stopBitMid (hc : s.cfg.wellFormed = true) :
    (rxCount s).rxCnt = sampleMid s.cfg ∧ (rxCount s).rxIdx = 9 ↔ stopBitMidNext s := by
  obtain ⟨-, hmid, hlt⟩ := derived_bounds hc
  unfold rxCount stopBitMidNext
  split <;> simp only [setRxPos_rxCnt, setRxPos_rxIdx] <;> omega

/-- The bit clock before the middle of the stop bit stays in range: the stop bit is never left by counting. -/
theorem State.Inv.rxCount (h : s.Inv) (hmid : ¬stopBitMidNext s) : (rxCount s).Inv := by
  obtain ⟨-, hpos, hlt⟩ := derived_bounds h.cfg_ok
  have hcnt := h.counters.rxCnt_lt
  have hlast := h.rx_last_bit
  have ⟨_, _, _, hidx⟩ := h.laws.ranges
  unfold Machine.rxCount
  split
  · exact h.setRxPos (by omega) (by omega) (by omega)
  · exact h.setRxPos hidx (by omega) (fun h9 => by have := hlast h9; omega)

theorem State.Inv.rxDrain (h : s.Inv) : (rxDrain s).Inv :=
  have ⟨hbright, hpwm, htx, _⟩ := h.laws.ranges
  ⟨h.cfg_ok,
    { h.laws with
      rxBusy_enabled := by simp
      irEn_off := fun he => have ⟨hcnt, hcar, htxb, _⟩ := h.laws.irEn_off he; ⟨hcnt, hcar, htxb, rfl⟩
      ranges := ⟨hbright, hpwm, htx, Nat.zero_le _⟩ },
    { h.counters with rxCnt_lt := Nat.zero_lt_of_lt h.counters.rxCnt_lt }, by simp⟩

theorem State.Inv.rxComplete (h : s.Inv) : (rxComplete s).Inv := by
  unfold Machine.rxComplete
  split
  · exact h.rxDrain.strobeIrqRx
  · exact h.rxDrain

theorem State.Inv.rxSample (h : s.Inv) (line : Bool) : (rxSample line s).Inv := by
  unfold Machine.rxSample
  split_ifs
  · exact h.rxComplete
  · exact h.rxStore line
  · exact h

/-- The drain (R203) frees the receiver wherever the bit clock stands. -/
theorem rxComplete_rxCount (s : State) : rxComplete (rxCount s) = rxComplete s := by
  have hdrain : rxDrain (rxCount s) = rxDrain s := by
    unfold rxCount
    split <;> rfl
  simp [rxComplete, hdrain]

theorem rxSample_stopBitMid (h : s.rxCnt = sampleMid s.cfg ∧ s.rxIdx = 9) : rxSample line s = rxComplete s := by
  simp [rxSample, h]

/-- The enabled receiver (R198) is idle, or counts to the middle of the stop bit, or counts within the frame. -/
theorem State.Inv.rxEngine (h : s.Inv) (line : Bool) : (rxEngine line s).Inv := by
  by_cases hon : s.irEn = true ∧ s.rxHwEn = true
  · obtain ⟨hi, hr⟩ := hon
    cases hb : s.rxBusy
    · rw [rxEngine_idle hi hr hb]
      exact h.rxStart hi hr line
    · rw [rxEngine_busy hi hr hb]
      by_cases hmid : stopBitMidNext s
      · rw [rxSample_stopBitMid (by simpa using (rxCount_stopBitMid h.cfg_ok).mpr hmid), rxComplete_rxCount]
        exact h.rxComplete
      · exact (h.rxCount hmid).rxSample line
  · rwa [rxEngine_off hon]

theorem State.Inv.rxAdvance (h : s.Inv) (line : Bool) : (rxAdvance line s).Inv := (h.rxEngine line).setRxPrev line

/-! ### The invariant: carrier -/

theorem State.Inv.setCarCnt (h : s.Inv) (he : s.irEn = true) {n : Nat} (hn : n < carrierHalf s.cfg) :
    (setCarCnt n s).Inv :=
  ⟨h.cfg_ok, { h.laws with irEn_off := fun hoff => absurd (hoff.symm.trans he) (by simp) },
    { h.counters with carCnt_lt := hn }, h.rx_last_bit⟩

theorem State.Inv.toggleCarrier (h : s.Inv) (he : s.irEn = true) : (toggleCarrier s).Inv :=
  ⟨h.cfg_ok, { h.laws with irEn_off := fun hoff => absurd (hoff.symm.trans he) (by simp) },
    { h.counters with }, h.rx_last_bit⟩

theorem State.Inv.carrierAdvance (h : s.Inv) : (carrierAdvance s).Inv := by
  have hcnt := h.counters.carCnt_lt
  unfold Machine.carrierAdvance
  split
  next he =>
    split
    · exact (h.setCarCnt he (n := 0) (by omega)).toggleCarrier he
    · exact h.setCarCnt he (by omega)
  · exact h

/-! ### The invariant: tick scheduler -/

/-- Law 4 of R36: the PWM counter and the gate move only with the ticks running. -/
theorem State.Inv.pwmStep (h : s.Inv) (ht : s.tickEn = true) : (pwmStep s).Inv :=
  have ⟨hbright, _, htx, hrx⟩ := h.laws.ranges
  ⟨h.cfg_ok,
    { h.laws with
      tickEn_off := fun hoff => absurd (hoff.symm.trans ht) (by simp)
      ranges := ⟨hbright, Nat.le_of_lt_succ (Nat.mod_lt _ (by decide)), htx, hrx⟩ },
    { h.counters with }, h.rx_last_bit⟩

theorem State.Inv.strobeProvTake (h : s.Inv) : (strobeProvTake s).Inv :=
  ⟨h.cfg_ok, { h.laws with }, { h.counters with }, h.rx_last_bit⟩

theorem State.Inv.irPeriodicStep (h : s.Inv) (prov : Byte) : (irPeriodicStep prov s).Inv := by
  unfold Machine.irPeriodicStep
  split
  · exact h.rxHwDisable.strobeProvTake.txPush prov
  · exact h

theorem State.Inv.strobeFast (h : s.Inv) : (strobeFast s).Inv :=
  have ⟨_, hslow, _⟩ := h.laws.strobes
  ⟨h.cfg_ok, { h.laws with strobes := ⟨fun _ => rfl, hslow, fun _ => rfl⟩ }, { h.counters with }, h.rx_last_bit⟩

theorem State.Inv.strobeSlow (h : s.Inv) (hf : s.evFast = true) : (strobeSlow s).Inv :=
  have ⟨hfast, _, _⟩ := h.laws.strobes
  ⟨h.cfg_ok, { h.laws with strobes := ⟨hfast, fun _ => rfl, fun _ => hf⟩ }, { h.counters with }, h.rx_last_bit⟩

theorem State.Inv.strobeIrqFast (h : s.Inv) (hf : s.evFast = true) : (strobeIrqFast s).Inv :=
  have ⟨_, hslow, hev⟩ := h.laws.strobes
  ⟨h.cfg_ok, { h.laws with strobes := ⟨fun _ => hf, hslow, hev⟩ }, { h.counters with }, h.rx_last_bit⟩

theorem State.Inv.strobeIrqSlow (h : s.Inv) (hs : s.evSlow = true) : (strobeIrqSlow s).Inv :=
  have ⟨hfast, _, hev⟩ := h.laws.strobes
  ⟨h.cfg_ok, { h.laws with strobes := ⟨hfast, fun _ => hs, hev⟩ }, { h.counters with }, h.rx_last_bit⟩

/-- The tick of a slot is on its strobe: what `Invoke` finds (R130, R131). -/
def tickShown (which : TickSlot) (s : State) : Prop :=
  match which with
  | .fast => s.evFast = true
  | .slow => s.evSlow = true

/-- `Invoke` (R132) with the ticks running and the tick of its slot shown, by the handler. -/
theorem State.Inv.invoke (h : s.Inv) (ht : s.tickEn = true) {which : TickSlot} (hw : tickShown which s)
    (handler : HandlerId) (prov : Byte) : (invoke handler which prov s).Inv := by
  cases handler with
  | hNone => exact h
  | hPwm => exact h.pwmStep ht
  | hIrtx => exact h.irPeriodicStep prov
  | hExt =>
    cases which with
    | fast => exact h.strobeIrqFast hw
    | slow => exact h.strobeIrqSlow hw

theorem State.Inv.slowTick (h : s.Inv) (ht : s.tickEn = true) (hf : s.evFast = true) (prov : Byte) :
    (slowTick prov s).Inv :=
  (h.strobeSlow hf).invoke ht (which := .slow) rfl _ prov

theorem State.Inv.countSlow (h : s.Inv) (ht : s.tickEn = true) : (countSlow s).Inv :=
  ⟨h.cfg_ok, { h.laws with tickEn_off := fun hoff => absurd (hoff.symm.trans ht) (by simp) },
    { h.counters with slowCnt_lt := Nat.mod_lt _ (Nat.zero_lt_of_lt h.counters.slowCnt_lt) }, h.rx_last_bit⟩

/-- `FastTick` (R130): the fast slot served, the counter moved, and when it wraps the slow slot served. -/
theorem State.Inv.fastTick (h : s.Inv) (ht : s.tickEn = true) (prov : Byte) : (fastTick prov s).Inv := by
  have hserved := h.strobeFast.invoke ht (which := .fast) rfl s.fastSlot prov
  have hcounted := hserved.countSlow (by simpa using ht)
  unfold Machine.fastTick Machine.slowTickIfWrapped
  split
  · exact hcounted.slowTick (by simpa using ht) (by simp) prov
  · exact hcounted

theorem State.Inv.setPreCnt (h : s.Inv) (ht : s.tickEn = true) {n : Nat} (hn : n < s.cfg.tickPrescale) :
    (setPreCnt n s).Inv :=
  ⟨h.cfg_ok, { h.laws with tickEn_off := fun hoff => absurd (hoff.symm.trans ht) (by simp) },
    { h.counters with preCnt_lt := hn }, h.rx_last_bit⟩

theorem State.Inv.setBaseCnt (h : s.Inv) (ht : s.tickEn = true) {n : Nat} (hn : n < s.cfg.fastCounts) :
    (setBaseCnt n s).Inv :=
  ⟨h.cfg_ok, { h.laws with tickEn_off := fun hoff => absurd (hoff.symm.trans ht) (by simp) },
    { h.counters with baseCnt_lt := hn }, h.rx_last_bit⟩

theorem State.Inv.baseAdvance (h : s.Inv) (ht : s.tickEn = true) (prov : Byte) : (baseAdvance prov s).Inv := by
  have hcnt := h.counters.baseCnt_lt
  unfold Machine.baseAdvance
  split
  · exact (h.setBaseCnt ht (n := 0) (by omega)).fastTick ht prov
  · exact h.setBaseCnt ht (by omega)

theorem State.Inv.tickAdvance (h : s.Inv) (prov : Byte) : (tickAdvance prov s).Inv := by
  have hcnt := h.counters.preCnt_lt
  unfold Machine.tickAdvance
  split
  next ht =>
    split
    · exact (h.setPreCnt ht (n := 0) (by omega)).baseAdvance ht prov
    · exact h.setPreCnt ht (by omega)
  · exact h

/-! ### The invariant: the step -/

theorem State.Inv.engines (h : s.Inv) (inp : Input) : (engines inp s).Inv :=
  ((h.clearStrobes.txAdvance.rxAdvance inp.rxLine).carrierAdvance).tickAdvance inp.provByte

theorem State.Inv.startTicks (h : s.Inv) : (startTicks s).Inv :=
  ⟨h.cfg_ok, { h.laws with tickEn_off := by simp, enables := by simp }, { h.counters with }, h.rx_last_bit⟩

theorem State.Inv.raiseCmdFault (h : s.Inv) : (raiseCmdFault s).Inv :=
  ⟨h.cfg_ok, { h.laws with }, { h.counters with }, h.rx_last_bit⟩

/-- Law 5 of R36: the stored brightness is clamped (R147). -/
theorem State.Inv.setBrightness (h : s.Inv) {n : Nat} (hn : n ≤ 100) : ({ s with brightness := n } : State).Inv :=
  have ⟨_, hpwm, htx, hrx⟩ := h.laws.ranges
  ⟨h.cfg_ok, { h.laws with ranges := ⟨hn, hpwm, htx, hrx⟩ }, { h.counters with }, h.rx_last_bit⟩

/-- Law 8 of R36: both initialisations run `TickInit` (R141, R161). -/
theorem State.Inv.lightInit (h : s.Inv) (ht : s.tickEn = true) (handler : HandlerId) :
    ({ s with lightEn := true, fastSlot := handler } : State).Inv :=
  have ⟨_, hir⟩ := h.laws.enables
  ⟨h.cfg_ok, { h.laws with enables := ⟨fun _ => ht, hir⟩ }, { h.counters with }, h.rx_last_bit⟩

theorem State.Inv.irInit (h : s.Inv) (ht : s.tickEn = true) : ({ s with irEn := true } : State).Inv :=
  have ⟨hlight, _⟩ := h.laws.enables
  ⟨h.cfg_ok,
    { h.laws with
      rxBusy_enabled := fun hb => ⟨(h.laws.rxBusy_enabled hb).1, rfl⟩
      txBusy_enabled := fun _ => rfl
      irEn_off := by simp
      enables := ⟨hlight, fun _ => ht⟩ },
    { h.counters with }, h.rx_last_bit⟩

theorem State.Inv.rxEnableBoth (h : s.Inv) : (rxEnableBoth s).Inv :=
  ⟨h.cfg_ok, { h.laws with rxBusy_enabled := fun hb => ⟨rfl, (h.laws.rxBusy_enabled hb).2⟩ }, { h.counters with },
    h.rx_last_bit⟩

theorem State.Inv.setRxIntent (h : s.Inv) (p : Bool) : ({ s with rxIntent := p } : State).Inv :=
  ⟨h.cfg_ok, { h.laws with }, { h.counters with }, h.rx_last_bit⟩

/-- Every command keeps the invariant, by the command; those not named write no field the invariant speaks of. -/
theorem State.Inv.exec (h : s.Inv) (he : exec i s = .next t) : t.Inv := by
  cases i with
  | nop => cases he; exact h
  | tickInit => cases he; exact h.startTicks
  | lightInit => cases he; exact h.startTicks.lightInit rfl .hPwm
  | setChannel c on =>
    simp only [Machine.exec, execSetChannel] at he
    split at he <;> cases he
    · exact h.raiseCmdFault
    · exact ⟨h.cfg_ok, { h.laws with }, { h.counters with }, h.rx_last_bit⟩
  | setBright b => cases he; exact h.setBrightness (Nat.min_le_right _ _)
  | irInit => cases he; exact h.startTicks.irInit rfl
  | rxEnable => cases he; exact h.rxEnableBoth
  | rxDisable => cases he; exact (h.setRxIntent false).rxHwDisable
  | rxSuspend => cases he; exact h.rxHwDisable
  | transmit b => cases he; exact h.txPush b
  | regFast _ | regSlow _ | allOff | regRxh _ | regTxp _ | txStart | txStop =>
    cases he
    exact ⟨h.cfg_ok, { h.laws with }, { h.counters with }, h.rx_last_bit⟩

theorem State.Inv.commandStep (h : s.Inv) (hc : commandStep inp s = .next t) : t.Inv := by
  obtain ⟨-, rfl⟩ | ⟨i, -, hi⟩ | ⟨-, -, rfl⟩ := commandStep_cases hc
  · exact h
  · exact h.exec hi
  · exact h.raiseCmdFault

/-- Every step keeps the invariant: reset puts it back, the sub-steps of R100 each hand it on. -/
theorem State.Inv.step (h : s.Inv) (hs : step s = .next t) : t.Inv := by
  cases hr : (currentInput s).rst
  · exact (h.consumeInput.engines _).commandStep (step_without_reset hs hr)
  · rw [step_with_reset hs hr]
    exact h.consumeInput.resetBlock

/-- Settles O41: the invariant along the run gives laws 1 to 6 and 8, the enables of one more step give law 7. -/
theorem lawsOfRule36HoldInEveryRun : Obligations.LawsOfRule36HoldInEveryRun := by
  intro c ins n t hc hrun
  have hinv : t.Inv := run_keeps (fun _ _ => State.Inv.step) n (inv_resetWith hc ins 0) hrun
  exact ⟨hinv.laws, fun _ hstep hr => step_keeps_enables hstep hr⟩

/-! ### The strobes after the engines -/

/-- R132: only `H_EXT` pulses the interrupt strobe, and only that of its own slot. -/
theorem invoke_irqFast (h : HandlerId) (which : TickSlot) (prov : Byte) (s : State) :
    (invoke h which prov s).irqFast = true ↔ s.irqFast = true ∨ (h = .hExt ∧ which = .fast) := by
  cases h with
  | hExt => cases which <;> simp [invoke, pulseIrq]
  | _ => simp [invoke]

theorem invoke_irqSlow (h : HandlerId) (which : TickSlot) (prov : Byte) (s : State) :
    (invoke h which prov s).irqSlow = true ↔ s.irqSlow = true ∨ (h = .hExt ∧ which = .slow) := by
  cases h with
  | hExt => cases which <;> simp [invoke, pulseIrq]
  | _ => simp [invoke]

/-- The periodic step takes the provider's byte exactly where it acts (R196). -/
theorem irPeriodicStep_provTake (prov : Byte) (s : State) :
    (irPeriodicStep prov s).provTake = true ↔ s.provTake = true ∨ (s.irEn = true ∧ s.txpReg = true) := by
  unfold irPeriodicStep
  split
  next hon => simp [hon]
  next hoff => simp [hoff]

theorem invoke_provTake (h : HandlerId) (which : TickSlot) (prov : Byte) (s : State) :
    (invoke h which prov s).provTake = true ↔
      s.provTake = true ∨ (h = .hIrtx ∧ s.irEn = true ∧ s.txpReg = true) := by
  cases h with
  | hIrtx => simp [invoke, irPeriodicStep_provTake]
  | hExt => cases which <;> simp [invoke, pulseIrq]
  | _ => simp [invoke]

/-- The slow counter wraps in this fast tick (R130). -/
def slowWraps (s : State) : Prop := (s.slowCnt + 1) % s.cfg.slowDiv = 0

@[simp] theorem fastTick_evFast (prov : Byte) (s : State) : (fastTick prov s).evFast = true := by simp [fastTick]

/-- The two cases of `FastTick` (R130): with a slow tick, and without. -/
theorem fastTick_slow (h : slowWraps s) :
    fastTick prov s = slowTick prov (countSlow (invoke s.fastSlot .fast prov (strobeFast s))) := by
  unfold slowWraps at h
  simp [fastTick, slowTickIfWrapped, h]

theorem fastTick_no_slow (h : ¬slowWraps s) :
    fastTick prov s = countSlow (invoke s.fastSlot .fast prov (strobeFast s)) := by
  unfold slowWraps at h
  simp [fastTick, slowTickIfWrapped, h]

theorem fastTick_evSlow : (fastTick prov s).evSlow = true ↔ s.evSlow = true ∨ slowWraps s := by
  by_cases h : slowWraps s
  · simp [fastTick_slow h, slowTick, h]
  · simp [fastTick_no_slow h, h]

theorem fastTick_irqFast : (fastTick prov s).irqFast = true ↔ s.irqFast = true ∨ s.fastSlot = .hExt := by
  by_cases h : slowWraps s
  · simp [fastTick_slow h, slowTick, invoke_irqFast]
  · simp [fastTick_no_slow h, invoke_irqFast]

theorem fastTick_irqSlow :
    (fastTick prov s).irqSlow = true ↔ s.irqSlow = true ∨ (slowWraps s ∧ s.slowSlot = .hExt) := by
  by_cases h : slowWraps s
  · simp [fastTick_slow h, slowTick, invoke_irqSlow, h]
  · simp [fastTick_no_slow h, invoke_irqSlow, h]

theorem fastTick_provTake :
    (fastTick prov s).provTake = true ↔ s.provTake = true ∨
      (s.irEn = true ∧ s.txpReg = true ∧ (s.fastSlot = .hIrtx ∨ (slowWraps s ∧ s.slowSlot = .hIrtx))) := by
  by_cases h : slowWraps s
  · simp only [fastTick_slow h, slowTick, countSlow_slowSlot, invoke_slowSlot, strobeFast_slowSlot, invoke_provTake,
      strobeSlow_provTake, countSlow_provTake, strobeFast_provTake, strobeFast_irEn, strobeFast_txpReg,
      strobeSlow_irEn, countSlow_irEn, invoke_irEn, strobeSlow_txpReg, countSlow_txpReg, invoke_txpReg, h, true_and]
    tauto
  · simp only [fastTick_no_slow h, countSlow_provTake, invoke_provTake, strobeFast_provTake, strobeFast_irEn,
      strobeFast_txpReg, h, false_and, or_false]
    tauto

/-- A strobe that the two dividers do not touch is raised by `TickAdvance` exactly in a fast tick that raises it. -/
theorem tickAdvance_strobe {strobe : State → Bool} {raised : Prop} (hclear : strobe s = false)
    (hframe : ∀ p b, strobe (setBaseCnt b (setPreCnt p s)) = strobe s)
    (hfast : strobe (fastTick prov (setBaseCnt 0 (setPreCnt 0 s))) = true ↔ raised) :
    strobe (tickAdvance prov s) = true ↔ fastTickDue s ∧ raised := by
  by_cases h : fastTickDue s
  · rw [tickAdvance_fast h, hfast, and_iff_right h]
  · obtain ⟨p, b, e⟩ := tickAdvance_no_tick h prov
    rw [e, hframe, hclear]
    exact iff_of_false (by simp) (fun hr => h hr.1)

theorem tickAdvance_evFast (hs : s.evFast = false) : (tickAdvance prov s).evFast = true ↔ fastTickDue s := by
  rw [tickAdvance_strobe hs (fun _ _ => rfl) (iff_true_intro (fastTick_evFast _ _)), and_true]

theorem tickAdvance_evSlow (hs : s.evSlow = false) : (tickAdvance prov s).evSlow = true ↔ slowTickDue s :=
  tickAdvance_strobe hs (fun _ _ => rfl) (fastTick_evSlow.trans (by simp [hs, slowWraps]))

theorem tickAdvance_irqFast (hs : s.irqFast = false) :
    (tickAdvance prov s).irqFast = true ↔ fastTickDue s ∧ s.fastSlot = .hExt :=
  tickAdvance_strobe hs (fun _ _ => rfl) (fastTick_irqFast.trans (by simp [hs]))

theorem tickAdvance_irqSlow (hs : s.irqSlow = false) :
    (tickAdvance prov s).irqSlow = true ↔ slowTickDue s ∧ s.slowSlot = .hExt := by
  rw [slowTickDue, and_assoc]
  exact tickAdvance_strobe hs (fun _ _ => rfl) (fastTick_irqSlow.trans (by simp [hs, slowWraps]))

theorem tickAdvance_provTake (hs : s.provTake = false) :
    (tickAdvance prov s).provTake = true ↔ s.irEn = true ∧ s.txpReg = true ∧
      ((fastTickDue s ∧ s.fastSlot = .hIrtx) ∨ (slowTickDue s ∧ s.slowSlot = .hIrtx)) := by
  rw [tickAdvance_strobe hs (fun _ _ => rfl) fastTick_provTake]
  simp only [setBaseCnt_provTake, setPreCnt_provTake, hs]
  unfold slowWraps slowTickDue
  tauto

/-- The receive strobe is raised where the middle of the stop bit is sampled with a handler registered (R204). -/
theorem rxSample_irqRx : (rxSample line s).irqRx = true ↔
    s.irqRx = true ∨ ((s.rxCnt = sampleMid s.cfg ∧ s.rxIdx = 9) ∧ s.rxhReg = true) := by
  by_cases hmid : s.rxCnt = sampleMid s.cfg ∧ s.rxIdx = 9
  · simp [rxSample_stopBitMid hmid, hmid]
  · have hstay : (rxSample line s).irqRx = s.irqRx := by
      unfold rxSample
      split_ifs with hcnt hidx
      · exact absurd ⟨hcnt, hidx⟩ hmid
      · simp
      · rfl
    simp only [hstay, hmid, false_and, or_false]

theorem rxAdvance_irqRx (hc : s.cfg.wellFormed = true) : (rxAdvance line s).irqRx = true ↔ s.irqRx = true ∨
    ((s.irEn = true ∧ s.rxHwEn = true) ∧ s.rxBusy = true ∧ stopBitMidNext s) ∧ s.rxhReg = true := by
  rw [rxAdvance, setRxPrev_irqRx]
  by_cases hon : s.irEn = true ∧ s.rxHwEn = true
  · cases hb : s.rxBusy
    · simp [rxEngine_idle hon.1 hon.2 hb]
    · rw [rxEngine_busy hon.1 hon.2 hb, rxSample_irqRx]
      simp only [rxCount_cfg, rxCount_irqRx, rxCount_rxhReg, rxCount_stopBitMid hc, hon, true_and]
  · simp only [rxEngine_off hon, hon, false_and, or_false]

/-! R34 before the command sub-step: the seven strobes after the engines, each by its event. -/

theorem engines_evFast : (engines inp s).evFast = true ↔ fastTickDue s := by
  unfold engines
  rw [tickAdvance_evFast (by simp)]
  simp [fastTickDue]

theorem engines_evSlow : (engines inp s).evSlow = true ↔ slowTickDue s := by
  unfold engines
  rw [tickAdvance_evSlow (by simp)]
  simp [fastTickDue, slowTickDue]

theorem engines_irqFast : (engines inp s).irqFast = true ↔ fastTickDue s ∧ s.fastSlot = .hExt := by
  unfold engines
  rw [tickAdvance_irqFast (by simp)]
  simp [fastTickDue]

theorem engines_irqSlow : (engines inp s).irqSlow = true ↔ slowTickDue s ∧ s.slowSlot = .hExt := by
  unfold engines
  rw [tickAdvance_irqSlow (by simp)]
  simp [fastTickDue, slowTickDue]

theorem engines_txDone : (engines inp s).txDone = true ↔ frameEnds s := by
  simp [engines, txAdvance_txDone, frameEnds]

theorem engines_irqRx (hc : s.cfg.wellFormed = true) :
    (engines inp s).irqRx = true ↔ byteCompletes s ∧ s.rxhReg = true := by
  simp only [engines, tickAdvance_irqRx, carrierAdvance_irqRx]
  rw [rxAdvance_irqRx (by simpa using hc)]
  simp [txAdvance_rxHwEn, stopBitMidNext, byteCompletes, receiverOn, frameEnds]

theorem engines_provTake : (engines inp s).provTake = true ↔ s.irEn = true ∧ s.txpReg = true ∧
    ((fastTickDue s ∧ s.fastSlot = .hIrtx) ∨ (slowTickDue s ∧ s.slowSlot = .hIrtx)) := by
  unfold engines
  rw [tickAdvance_provTake (by simp)]
  simp [fastTickDue, slowTickDue]

/-- Settles O14: no command writes a strobe, so after a step the strobes are those the engines leave. -/
theorem strobesShowExactlyTheEventsOfTheStep : Obligations.StrobesShowExactlyTheEventsOfTheStep := by
  refine ⟨fun _ => rfl, fun _ => rfl, fun s t hr hstep => ?_⟩
  have hc := cfg_wellFormed_of_step hstep
  have hsame := commandStep_strobes (step_without_reset hstep hr)
  rw [hsame.evFast, hsame.evSlow, hsame.irqFast, hsame.irqSlow, hsame.txDone, hsame.irqRx, hsame.provTake]
  exact ⟨engines_evFast, engines_evSlow, engines_irqFast, engines_irqSlow, engines_txDone, engines_irqRx hc,
    engines_provTake⟩

/-! ### The fault flag, reset and the ports -/

/-- Settles O15: the engines leave the flag, and the command sub-step raises it for a reserved word alone. -/
theorem faultFlagIsSetByReservedWordsAndClearedByResetOnly :
    Obligations.FaultFlagIsSetByReservedWordsAndClearedByResetOnly := by
  refine ⟨fun _ => rfl, fun s t hstep => ?_⟩
  cases hr : (currentInput s).rst
  · simpa using commandStep_cmdFault (step_without_reset hstep hr)
  · simp [step_with_reset hstep hr]

/-- Settles O10: the step of a reset cycle is `resetBlock`, whose fields are the values of R40. -/
theorem resetCycleGivesResetState : Obligations.ResetCycleGivesResetState := by
  intro s hc hr
  refine ⟨resetBlock (consumeInput s), by rw [step_eq hc, if_pos hr], ?_⟩
  repeat' apply And.intro
  all_goals rfl

/-- Settles O36, by whether the Light Controller is initialised and the gate open. -/
theorem lampPinsShowMaskThroughGate : Obligations.LampPinsShowMaskThroughGate := by
  refine fun s => ⟨fun hl hg => if_pos ⟨hl, hg⟩, fun hoff => if_neg ?_⟩
  rintro ⟨hl, hg⟩
  rcases hoff with h | h
  · simp [h] at hl
  · simp [h] at hg

theorem txReady_iff : txReady s = true ↔ s.irEn = true ∧ s.txBusy = false := by simp [txReady]

/-- Settles O57: each port is its field or its function of R55 and R56, none of which reads the model's own fields. -/
theorem outputPortsShowTheFieldsOfRule54 : Obligations.OutputPortsShowTheFieldsOfRule54 :=
  fun _ => ⟨rfl, rfl, rfl, rfl, rfl, rfl, rfl, rfl, rfl, rfl, rfl, txReady_iff, rfl, rfl, fun _ _ _ => rfl⟩

end Machine
end Sys2Proof
end

section
/-!
PROOFS. The statements of `spec/30_encoding.md`: `Decode` and its inverse (R86), the reserved words (R84) and the
pseudo-commands (R91). The opcodes are sorted by operand format (R82); each format has one rule for the words it
rejects and one for the words it accepts, and each table of opcodes one for the decoder and one for the encoder.
-/

namespace Sys2Proof

variable {op k : Byte}

/-! ### The decoder's answer and reserved words -/

theorem isReserved_iff {w : Word} : isReserved w = true ↔ ∃ r, decode w = .reserved r := by
  unfold isReserved
  cases decode w <;> simp

/-! ### Operand bytes -/

/-- The bits above the handler id are 0 exactly for an operand of at most 3. -/
theorem highSix_eq_zero_iff : k.extractLsb' 2 6 = 0#6 ↔ k.toNat ≤ 3 := by
  rw [← BitVec.toNat_inj, BitVec.extractLsb'_toNat, Nat.shiftRight_eq_div_pow, BitVec.toNat_ofNat]
  omega

/-- The bits above the hook's bit are 0 exactly for an operand of at most 1. -/
theorem highSeven_eq_zero_iff : k.extractLsb' 1 7 = 0#7 ↔ k.toNat ≤ 1 := by
  rw [← BitVec.toNat_inj, BitVec.extractLsb'_toNat, Nat.shiftRight_eq_div_pow, BitVec.toNat_ofNat]
  omega

theorem operandH_of_highSix (h : k.extractLsb' 2 6 = 0#6) :
    operandH (HandlerId.ofBits (k.extractLsb' 0 2)) = k := by
  rw [operandH, HandlerId.toBits_ofBits, ← h,
    BitVec.extractLsb'_append_extractLsb'_eq_extractLsb' (by rfl), BitVec.extractLsb'_eq_self]

theorem extractLsb'_one_bit {n : Nat} (x : BitVec n) (j : Nat) :
    x.extractLsb' j 1 = BitVec.ofBool (x.getLsbD j) := by
  apply BitVec.eq_of_getLsbD_eq
  intro i hi
  obtain rfl : i = 0 := by omega
  simp

theorem operandC_of_midFive (h : k.extractLsb' 2 5 = 0#5) :
    operandC (k.extractLsb' 0 2) (k.getLsbD 7) = k := by
  rw [operandC, ← h, ← extractLsb'_one_bit, BitVec.extractLsb'_append_extractLsb'_eq_extractLsb' (by rfl),
    BitVec.extractLsb'_append_extractLsb'_eq_extractLsb' (by rfl), BitVec.extractLsb'_eq_self]

theorem operandP_of_highSeven (h : k.extractLsb' 1 7 = 0#7) : operandP (k.getLsbD 0) = k := by
  rw [operandP, ← h, ← extractLsb'_one_bit, BitVec.extractLsb'_append_extractLsb'_eq_extractLsb' (by rfl),
    BitVec.extractLsb'_eq_self]

/-! ### Each format: the operands it rejects -/

theorem decodeZ_reserved_iff {i : Instr} : (∃ r, decodeZ i k = .reserved r) ↔ k ≠ 0#8 := by
  unfold decodeZ
  split <;> simp [*]

theorem decodeH_reserved_iff {mk : HandlerId → Instr} : (∃ r, decodeH mk k = .reserved r) ↔ 3 < k.toNat := by
  rw [← not_le, ← highSix_eq_zero_iff]
  unfold decodeH
  split <;> simp [*]

theorem decodeC_reserved_iff {mk : Channel → Bool → Instr} :
    (∃ r, decodeC mk k = .reserved r) ↔ k.extractLsb' 2 5 ≠ 0#5 ∨ k.extractLsb' 0 2 = 3#2 := by
  unfold decodeC
  split
  · split <;> simp [*]
  · simp [*]

theorem decodeP_reserved_iff {mk : Bool → Instr} : (∃ r, decodeP mk k = .reserved r) ↔ 1 < k.toNat := by
  rw [← not_le, ← highSeven_eq_zero_iff]
  unfold decodeP
  split <;> simp [*]

/-! ### Each format: a command it reads was written with its own operand byte -/

theorem decodeZ_command {i j : Instr} (h : decodeZ i k = .command j) : k = 0#8 ∧ i = j := by
  unfold decodeZ at h
  split at h <;> simp_all

theorem decodeH_command {mk : HandlerId → Instr} {j : Instr} (h : decodeH mk k = .command j) :
    ∃ a, k = operandH a ∧ mk a = j := by
  unfold decodeH at h
  split at h
  · next hk => exact ⟨_, (operandH_of_highSix hk).symm, Decoded.command.inj h⟩
  · cases h

theorem decodeC_command {mk : Channel → Bool → Instr} {j : Instr} (h : decodeC mk k = .command j) :
    ∃ c on, k = operandC c on ∧ mk c on = j := by
  unfold decodeC at h
  split at h
  · next hk =>
    split at h
    · cases h
    · exact ⟨_, _, (operandC_of_midFive hk).symm, Decoded.command.inj h⟩
  · cases h

theorem decodeP_command {mk : Bool → Instr} {j : Instr} (h : decodeP mk k = .command j) :
    ∃ p, k = operandP p ∧ mk p = j := by
  unfold decodeP at h
  split at h
  · next hk => exact ⟨_, (operandP_of_highSeven hk).symm, Decoded.command.inj h⟩
  · cases h

/-! ### The opcodes by format (R83) -/

/-- The opcodes of format `Z`, each with its command. -/
def opsZ : List (Byte × Instr) :=
  [(0x00#8, .nop), (0x10#8, .tickInit), (0x20#8, .lightInit), (0x22#8, .allOff), (0x30#8, .irInit),
    (0x31#8, .rxEnable), (0x32#8, .rxDisable), (0x33#8, .rxSuspend), (0x36#8, .txStart), (0x37#8, .txStop)]

/-- The opcodes of format `H`, each with the command of a handler id. -/
def opsH : List (Byte × (HandlerId → Instr)) := [(0x11#8, .regFast), (0x12#8, .regSlow)]

/-- The opcodes of format `P`, each with the command of a bit. -/
def opsP : List (Byte × (Bool → Instr)) := [(0x34#8, .regRxh), (0x35#8, .regTxp)]

/-- The opcodes of format `B`, each with the command of a byte. -/
def opsB : List (Byte × (Byte → Instr)) := [(0x23#8, .setBright), (0x38#8, .transmit)]

/-- The 17 opcodes in the order of R83. -/
def opcodes : List Byte :=
  [0x00#8, 0x10#8, 0x11#8, 0x12#8, 0x20#8, 0x21#8, 0x22#8, 0x23#8, 0x30#8, 0x31#8, 0x32#8, 0x33#8, 0x34#8, 0x35#8,
    0x36#8, 0x37#8, 0x38#8]

/-- How an opcode's operand byte is read: by one of the five formats, or not at all. -/
inductive OpFormat (op : Byte) : Prop where
  | z {i : Instr} (hop : (op, i) ∈ opsZ)
  | h {mk : HandlerId → Instr} (hop : (op, mk) ∈ opsH)
  | c (hop : op = 0x21#8)
  | p {mk : Bool → Instr} (hop : (op, mk) ∈ opsP)
  | b {mk : Byte → Instr} (hop : (op, mk) ∈ opsB)
  | unlisted (hop : op ∉ opcodes)

/-- Every listed opcode stands in the table of one format. -/
theorem mem_opcodes_format : ∀ op ∈ opcodes, op ∈ opsZ.map Prod.fst ∨ op ∈ opsH.map Prod.fst ∨ op = 0x21#8 ∨
    op ∈ opsP.map Prod.fst ∨ op ∈ opsB.map Prod.fst := by decide

theorem opFormat (op : Byte) : OpFormat op := by
  by_cases hop : op ∈ opcodes
  · rcases mem_opcodes_format op hop with h | h | h | h | h
    · obtain ⟨⟨_, _⟩, hmem, rfl⟩ := List.mem_map.mp h
      exact .z hmem
    · obtain ⟨⟨_, _⟩, hmem, rfl⟩ := List.mem_map.mp h
      exact .h hmem
    · exact .c h
    · obtain ⟨⟨_, _⟩, hmem, rfl⟩ := List.mem_map.mp h
      exact .p hmem
    · obtain ⟨⟨_, _⟩, hmem, rfl⟩ := List.mem_map.mp h
      exact .b hmem
  · exact .unlisted hop

/-! ### The lines of `Decode` (R86), by format -/

theorem decode_opsZ {i : Instr} (h : (op, i) ∈ opsZ) : decode (wordOf op k) = decodeZ i k := by
  have hall : ∀ e ∈ opsZ, decodeFields e.1 k = decodeZ e.2 k := by simp [opsZ, decodeFields]
  simpa using hall _ h

theorem decode_opsH {mk : HandlerId → Instr} (h : (op, mk) ∈ opsH) : decode (wordOf op k) = decodeH mk k := by
  have hall : ∀ e ∈ opsH, decodeFields e.1 k = decodeH e.2 k := by simp [opsH, decodeFields]
  simpa using hall _ h

/-- An operand of at most 3 is a handler id. -/
theorem decode_opsH_of_le {mk : HandlerId → Instr} (h : (op, mk) ∈ opsH) (hk : k.toNat ≤ 3) :
    decode (wordOf op k) = .command (mk (HandlerId.ofBits (k.extractLsb' 0 2))) := by
  rw [decode_opsH h, decodeH, if_pos (highSix_eq_zero_iff.mpr hk)]

theorem decode_setChannel_op : decode (wordOf 0x21#8 k) = decodeC .setChannel k := by
  simp [decodeFields]

/-- A channel that exists, the bits between it and its level 0. -/
theorem decode_setChannel_op_of_legal (h : k.extractLsb' 2 5 = 0#5 ∧ k.extractLsb' 0 2 ≠ 3#2) :
    decode (wordOf 0x21#8 k) = .command (.setChannel (k.extractLsb' 0 2) (k.getLsbD 7)) := by
  rw [decode_setChannel_op, decodeC, if_pos h.1, if_neg h.2]

theorem decode_opsP {mk : Bool → Instr} (h : (op, mk) ∈ opsP) : decode (wordOf op k) = decodeP mk k := by
  have hall : ∀ e ∈ opsP, decodeFields e.1 k = decodeP e.2 k := by simp [opsP, decodeFields]
  simpa using hall _ h

/-- An operand of at most 1 is a bit. -/
theorem decode_opsP_of_le {mk : Bool → Instr} (h : (op, mk) ∈ opsP) (hk : k.toNat ≤ 1) :
    decode (wordOf op k) = .command (mk (k.getLsbD 0)) := by
  rw [decode_opsP h, decodeP, if_pos (highSeven_eq_zero_iff.mpr hk)]

theorem decode_opsB {mk : Byte → Instr} (h : (op, mk) ∈ opsB) : decode (wordOf op k) = .command (mk k) := by
  have hall : ∀ e ∈ opsB, decodeFields e.1 k = .command (e.2 k) := by simp [opsB, decodeFields, decodeB]
  simpa using hall _ h

theorem decode_unlisted (h : op ∉ opcodes) : decode (wordOf op k) = .reserved .opcode := by
  simp only [opcodes, List.mem_cons, List.not_mem_nil, or_false, not_or] at h
  simp [decodeFields, h]

/-! ### The lines of `Encode`, by format -/

theorem encode_opsZ : ∀ e ∈ opsZ, encode e.2 = wordOf e.1 0#8 := by decide

theorem encode_opsH {a : HandlerId} : ∀ e ∈ opsH, encode (e.2 a) = wordOf e.1 (operandH a) := by
  simp [opsH, encode]

theorem encode_opsP {p : Bool} : ∀ e ∈ opsP, encode (e.2 p) = wordOf e.1 (operandP p) := by
  simp [opsP, encode]

theorem encode_opsB : ∀ e ∈ opsB, encode (e.2 k) = wordOf e.1 k := by simp [opsB, encode]

/-! ### The two round trips (R86) -/

/-- `Decode(Encode(i)) = i` for every legal command: each operand is read back from the byte of its format. -/
theorem decode_encode (i : Instr) (hi : i.wellFormed = true) : decode (encode i) = .command i := by
  cases i with
  | regFast a => exact (decode_wordOf _ _).trans (decodeH_operandH .regFast a)
  | regSlow a => exact (decode_wordOf _ _).trans (decodeH_operandH .regSlow a)
  | setChannel c on =>
    have hc : c ≠ 3#2 := by simpa [Instr.wellFormed] using hi
    exact (decode_wordOf _ _).trans (decodeC_operandC .setChannel c on hc)
  | regRxh p => exact (decode_wordOf _ _).trans (decodeP_operandP .regRxh p)
  | regTxp p => exact (decode_wordOf _ _).trans (decodeP_operandP .regTxp p)
  | setBright b => exact decode_wordOf _ _
  | transmit b => exact decode_wordOf _ _
  | _ => rfl

/-- `Encode(Decode(w)) = w` on the two fields of a word: a command fixes the operand byte it was read from. -/
theorem encode_of_decode_wordOf {i : Instr} (h : decode (wordOf op k) = .command i) : encode i = wordOf op k := by
  cases opFormat op with
  | z hop =>
    obtain ⟨rfl, rfl⟩ := decodeZ_command ((decode_opsZ hop).symm.trans h)
    exact encode_opsZ _ hop
  | h hop =>
    obtain ⟨a, rfl, rfl⟩ := decodeH_command ((decode_opsH hop).symm.trans h)
    exact encode_opsH _ hop
  | c hop =>
    subst hop
    obtain ⟨c, on, rfl, rfl⟩ := decodeC_command (decode_setChannel_op.symm.trans h)
    rfl
  | p hop =>
    obtain ⟨p, rfl, rfl⟩ := decodeP_command ((decode_opsP hop).symm.trans h)
    exact encode_opsP _ hop
  | b hop =>
    obtain rfl := Decoded.command.inj ((decode_opsB hop).symm.trans h)
    exact encode_opsB _ hop
  | unlisted hop => cases (decode_unlisted hop).symm.trans h

theorem encode_of_decode {w : Word} {i : Instr} (h : decode w = .command i) : encode i = w := by
  rw [← wordOf_fields w] at h ⊢
  exact encode_of_decode_wordOf h

/-! ### The reserved words (R84), by format -/

theorem isReserved_opsZ {i : Instr} (h : (op, i) ∈ opsZ) : isReserved (wordOf op k) = true ↔ k ≠ 0#8 := by
  rw [isReserved_iff, decode_opsZ h, decodeZ_reserved_iff]

theorem isReserved_opsH {mk : HandlerId → Instr} (h : (op, mk) ∈ opsH) :
    isReserved (wordOf op k) = true ↔ 3 < k.toNat := by
  rw [isReserved_iff, decode_opsH h, decodeH_reserved_iff]

theorem isReserved_setChannel_op :
    isReserved (wordOf 0x21#8 k) = true ↔ k.extractLsb' 2 5 ≠ 0#5 ∨ k.extractLsb' 0 2 = 3#2 := by
  rw [isReserved_iff, decode_setChannel_op, decodeC_reserved_iff]

theorem isReserved_opsP {mk : Bool → Instr} (h : (op, mk) ∈ opsP) :
    isReserved (wordOf op k) = true ↔ 1 < k.toNat := by
  rw [isReserved_iff, decode_opsP h, decodeP_reserved_iff]

theorem not_isReserved_opsB {mk : Byte → Instr} (h : (op, mk) ∈ opsB) : ¬isReserved (wordOf op k) = true := by
  simp [isReserved, decode_opsB h]

theorem isReserved_unlisted (h : op ∉ opcodes) : isReserved (wordOf op k) = true := by
  simp [isReserved, decode_unlisted h]

/-- The five cases of R84 on the two fields of a word, the opcodes named through the tables of their formats. -/
theorem isReserved_wordOf_iff :
    isReserved (wordOf op k) = true ↔
      op ∉ opcodes ∨ (op ∈ opsZ.map Prod.fst ∧ k ≠ 0#8) ∨ (op ∈ opsH.map Prod.fst ∧ 3 < k.toNat) ∨
      (op = 0x21#8 ∧ (k.extractLsb' 2 5 ≠ 0#5 ∨ k.extractLsb' 0 2 = 3#2)) ∨
      (op ∈ opsP.map Prod.fst ∧ 1 < k.toNat) := by
  constructor
  · intro hres
    cases opFormat op with
    | z hop => exact .inr (.inl ⟨List.mem_map_of_mem hop, (isReserved_opsZ hop).mp hres⟩)
    | h hop => exact .inr (.inr (.inl ⟨List.mem_map_of_mem hop, (isReserved_opsH hop).mp hres⟩))
    | c hop =>
      subst hop
      exact .inr (.inr (.inr (.inl ⟨rfl, isReserved_setChannel_op.mp hres⟩)))
    | p hop => exact .inr (.inr (.inr (.inr ⟨List.mem_map_of_mem hop, (isReserved_opsP hop).mp hres⟩)))
    | b hop => exact absurd hres (not_isReserved_opsB hop)
    | unlisted hop => exact .inl hop
  · rintro (hop | ⟨hop, hk⟩ | ⟨hop, hk⟩ | ⟨rfl, hk⟩ | ⟨hop, hk⟩)
    · exact isReserved_unlisted hop
    · obtain ⟨⟨_, _⟩, hmem, rfl⟩ := List.mem_map.mp hop
      exact (isReserved_opsZ hmem).mpr hk
    · obtain ⟨⟨_, _⟩, hmem, rfl⟩ := List.mem_map.mp hop
      exact (isReserved_opsH hmem).mpr hk
    · exact isReserved_setChannel_op.mpr hk
    · obtain ⟨⟨_, _⟩, hmem, rfl⟩ := List.mem_map.mp hop
      exact (isReserved_opsP hmem).mpr hk

/-! ### Words as numbers -/

theorem toNat_wordOf (op k : Byte) : (wordOf op k).toNat = op.toNat * 256 + k.toNat := by
  rw [wordOf, BitVec.toNat_append, ← Nat.shiftLeft_add_eq_or_of_lt k.isLt, Nat.shiftLeft_eq]

theorem toNat_operandC (c : Channel) (on : Bool) : (operandC c on).toNat = on.toNat * 128 + c.toNat := by
  revert c on
  decide

theorem toNat_encode_setChannel (c : Channel) (on : Bool) :
    (encode (.setChannel c on)).toNat = 0x2100 + on.toNat * 0x80 + c.toNat := by
  rw [encode, toNat_wordOf, toNat_operandC, ← Nat.add_assoc]
  rfl

namespace Machine

/-- Settles O1: a line of `Decode` per operand format, and the two round trips. -/
theorem decodeFollowsRule86AndEncodeInvertsIt : Obligations.DecodeFollowsRule86AndEncodeInvertsIt := by
  have hfast : (0x11#8, Instr.regFast) ∈ opsH := .head _
  have hslow : (0x12#8, Instr.regSlow) ∈ opsH := .tail _ (.head _)
  have hrxh : (0x34#8, Instr.regRxh) ∈ opsP := .head _
  have htxp : (0x35#8, Instr.regTxp) ∈ opsP := .tail _ (.head _)
  have hbright : (0x23#8, Instr.setBright) ∈ opsB := .head _
  have htransmit : (0x38#8, Instr.transmit) ∈ opsB := .tail _ (.head _)
  refine ⟨fun op i hop => ⟨?formatZ, fun k => (isReserved_opsZ hop).mpr⟩, fun k => ⟨?formatH, ?formatHReserved⟩,
    fun k => ⟨decode_setChannel_op_of_legal, ?formatCReserved⟩, fun k => ⟨?formatP, ?formatPReserved⟩,
    fun k => ⟨decode_opsB hbright, decode_opsB htransmit⟩, fun _ _ => isReserved_unlisted, decode_encode,
    fun w i hw => ⟨encode_of_decode hw, decode_wellFormed hw⟩⟩
  case formatZ => exact (decode_opsZ hop).trans (if_pos rfl)
  case formatH => exact fun hk => ⟨decode_opsH_of_le hfast hk, decode_opsH_of_le hslow hk⟩
  case formatHReserved => exact fun hk => ⟨(isReserved_opsH hfast).mpr hk, (isReserved_opsH hslow).mpr hk⟩
  case formatCReserved => exact fun hk => isReserved_setChannel_op.mpr ((not_and_or.mp hk).imp_right not_not.mp)
  case formatP => exact fun hk => ⟨decode_opsP_of_le hrxh hk, decode_opsP_of_le htxp hk⟩
  case formatPReserved => exact fun hk => ⟨(isReserved_opsP hrxh).mpr hk, (isReserved_opsP htxp).mpr hk⟩

theorem commandStep_reserved {inp : Input} (s : State) (hv : inp.cmdValid = true)
    (hres : isReserved inp.cmd = true) : commandStep inp s = .next (raiseCmdFault s) := by
  obtain ⟨r, hr⟩ := isReserved_iff.mp hres
  simp [commandStep, hv, hr]

/-- Settles O2: the cases of R84 are those of the formats, and the command sub-step of a reserved word raises
`CmdFault` on the engines' state. -/
theorem reservedWordsFaultAndChangeNothingElse : Obligations.ReservedWordsFaultAndChangeNothingElse := by
  refine ⟨fun w => ?_, fun s hc hr hv hres => ?_⟩
  · rw [← wordOf_fields w, opField_wordOf, kField_wordOf]
    exact isReserved_wordOf_iff
  · rw [step_eq hc, if_neg (by simp [hr]), commandStep_reserved _ hv hres]
    rfl

/-- Settles O5: `CH_ON` and `CH_OFF` by the number of a `SET_CHANNEL` word, the four others by their fixed words. -/
theorem pseudoCommandsExpandToTheirWords : Obligations.PseudoCommandsExpandToTheirWords :=
  ⟨fun c _ => ⟨rfl, toNat_encode_setChannel c true, rfl, toNat_encode_setChannel c false⟩, ⟨rfl, rfl⟩, ⟨rfl, rfl⟩,
    ⟨rfl, rfl⟩, ⟨rfl, rfl⟩⟩

end Machine
end Sys2Proof
end

section
/-!
PROOFS. The statements of `spec/40_step.md`: the step of R100, one rule for each of its four outcomes, and `NOP` (R106),
whose cycle is compared with one that presents no command.
-/

namespace Sys2Proof
namespace Machine

variable {s : State} {inp inp' : Input} {rest : List Input} {i : Instr}

/-! ### The outcomes of a step (R100) -/

theorem step_of_rst (hc : s.cfg.wellFormed = true) (hr : (currentInput s).rst = true) :
    step s = .next (resetBlock (consumeInput s)) := by
  rw [step_eq hc, if_pos hr]

theorem step_of_not_rst (hc : s.cfg.wellFormed = true) (hr : (currentInput s).rst = false) :
    step s = commandStep (currentInput s) (engines (currentInput s) (consumeInput s)) := by
  rw [step_eq hc, if_neg (Bool.eq_false_iff.mp hr)]

theorem step_of_command (hc : s.cfg.wellFormed = true) (hr : (currentInput s).rst = false)
    (hi : presents (currentInput s) i) : step s = exec i (engines (currentInput s) (consumeInput s)) := by
  rw [step_of_not_rst hc hr, commandStep_command _ hi]

theorem step_of_reserved (hc : s.cfg.wellFormed = true) (hr : (currentInput s).rst = false)
    (hv : (currentInput s).cmdValid = true) (hres : isReserved (currentInput s).cmd = true) :
    step s = .next (raiseCmdFault (engines (currentInput s) (consumeInput s))) := by
  rw [step_of_not_rst hc hr, commandStep_reserved _ hv hres]

theorem step_of_no_command (hc : s.cfg.wellFormed = true) (hr : (currentInput s).rst = false)
    (hv : (currentInput s).cmdValid = false) :
    step s = .next (engines (currentInput s) (consumeInput s)) := by
  rw [step_of_not_rst hc hr, commandStep_no_command _ hv]

/-- Settles O6: `S4` is what `engines` leaves of the state whose inputs have been taken; each clause is one outcome. -/
theorem stepRunsSubStepsThenDecodedCommand : Obligations.StepRunsSubStepsThenDecodedCommand := by
  rintro s _ hc rfl
  refine ⟨step_of_rst hc, fun hr s4 hs4 => ?_⟩
  obtain rfl : s4 = engines (currentInput s) (consumeInput s) := hs4
  exact ⟨fun i hv hd => step_of_command hc hr ⟨hv, hd⟩, step_of_reserved hc hr, step_of_no_command hc hr⟩

/-! ### A cycle with `NOP` (R106) -/

theorem exec_nop (s : State) : exec .nop s = .next s := rfl

theorem decode_zero : decode 0x0000#16 = .command .nop := rfl

/-- `cmd_valid` is no input of the engines. -/
theorem engines_cmdValid (inp : Input) (valid : Bool) (s : State) :
    engines { inp with cmdValid := valid } s = engines inp s := rfl

theorem commandStep_nop (s : State) (h : presents inp .nop) :
    commandStep inp s = commandStep { inp with cmdValid := false } s := by
  rw [commandStep_command s h, exec_nop, commandStep_no_command s rfl]

theorem stepWith_nop (s : State) (h : presents inp .nop) :
    stepWith inp s = stepWith { inp with cmdValid := false } s := by
  simp only [stepWith, engines_cmdValid, commandStep_nop _ h]

/-- The step of a state whose next inputs are listed, under every configuration. -/
theorem step_of_inputs_eq_cons (h : s.inputs = inp :: rest) :
    step s = if s.cfg.wellFormed then stepWith inp (consumeInput s) else .refused .configOutOfRange := by
  have hin : currentInput s = inp := currentInput_of_listed (by simp [h])
  rw [step, cycleStep, hin]

/-- Taking the inputs of a cycle forgets what they were. -/
theorem consumeInput_replace_head (h : s.inputs = inp :: rest) :
    consumeInput { s with inputs := inp' :: rest } = consumeInput s := by
  simp [consumeInput, h]

/-- Settles O16: `NOP` leaves the engines' state as a cycle without a command does, and nothing else in a step depends
on `cmd_valid`. -/
theorem nopChangesNothing : Obligations.NopChangesNothing := by
  refine ⟨rfl, fun k => (isReserved_opsZ (i := .nop) (.head _)).mpr, exec_nop, fun s inp rest hs hv hcmd => ?_⟩
  have hnop : presents inp .nop := ⟨hv, by rw [hcmd, decode_zero]⟩
  rw [step_of_inputs_eq_cons hs, step_of_inputs_eq_cons (inp := { inp with cmdValid := false }) rfl,
    consumeInput_replace_head hs, stepWith_nop _ hnop]

end Machine
end Sys2Proof
end

section
/-!
PROOFS. The statements of `spec/41_tick_scheduler.md`: the closed form of the divider chain (R133). Each divider counts
when the one before it wraps, so in quotients and remainders of the cycle number a step is the next number; the closed
form is kept by every step without reset, whatever it commands.
-/

namespace Sys2Proof
namespace Machine

variable {s t : State} {inp : Input} {i : Instr} {n a b : Nat}

/-! ### The next cycle in quotients and remainders -/

/-- A count modulo `a` stands at its last value exactly before a multiple of `a`. -/
theorem mod_eq_pred_iff (ha : 0 < a) : n % a = a - 1 ↔ a ∣ n + 1 := by
  obtain ⟨a, rfl⟩ := Nat.exists_eq_add_one.mpr ha
  rw [Nat.dvd_iff_mod_eq_zero, Nat.succ_mod_succ_eq_zero_iff, Nat.add_sub_cancel]

/-- A counter that returns to 0 from its last value `a - 1` counts modulo `a`. -/
theorem succ_mod_eq_wrap (ha : 0 < a) : (n + 1) % a = if n % a = a - 1 then 0 else n % a + 1 := by
  split
  next hlast => exact Nat.mod_eq_zero_of_dvd ((mod_eq_pred_iff ha).mp hlast)
  next hlast =>
    have hlt := Nat.mod_lt n ha
    rw [← Nat.mod_add_mod, Nat.mod_eq_of_lt (by omega)]

/-- The quotient by `a` moves where `a` divides the next number. -/
theorem succ_div_mod_eq_ite : (n + 1) / a % b = if a ∣ n + 1 then (n / a + 1) % b else n / a % b := by
  split
  next h => rw [Nat.succ_div_of_dvd h]
  next h => rw [Nat.succ_div_of_not_dvd h]

/-- Two stages wrap together where the first one wraps and the count of its wraps does. -/
theorem mul_dvd_succ_iff : a * b ∣ n + 1 ↔ a ∣ n + 1 ∧ b ∣ n / a + 1 := by
  constructor
  · intro h
    have ha : a ∣ n + 1 := dvd_of_mul_right_dvd h
    exact ⟨ha, by rwa [← Nat.succ_div_of_dvd ha, Nat.dvd_div_iff_mul_dvd ha]⟩
  · rintro ⟨ha, hb⟩
    rwa [← Nat.dvd_div_iff_mul_dvd ha, Nat.succ_div_of_dvd ha]

/-! ### Every cycle completes -/

theorem exec_total (i : Instr) (s : State) : ∃ t, exec i s = .next t := by
  cases i with
  | setChannel c on =>
    simp only [exec, execSetChannel]
    split <;> exact ⟨_, rfl⟩
  | _ => exact ⟨_, rfl⟩

theorem commandStep_total (inp : Input) (s : State) : ∃ t, commandStep inp s = .next t := by
  unfold commandStep
  split
  · split
    · exact exec_total _ s
    · exact ⟨_, rfl⟩
  · exact ⟨_, rfl⟩

theorem step_total (hc : s.cfg.wellFormed = true) : ∃ t, step s = .next t := by
  rw [step_eq hc]
  split
  · exact ⟨_, rfl⟩
  · exact commandStep_total _ _

/-! ### What a step without reset does to the dividers -/

/-- The three dividers of the tick chain (R24) are as before. -/
structure SameDividers (s t : State) : Prop where
  preCnt : t.preCnt = s.preCnt
  baseCnt : t.baseCnt = s.baseCnt
  slowCnt : t.slowCnt = s.slowCnt

/-- No command writes a divider (R69). -/
theorem exec_dividers (h : exec i s = .next t) : SameDividers s t := by
  cases i with
  | setChannel c on =>
    simp only [exec, execSetChannel] at h
    split at h <;> cases h <;> constructor <;> rfl
  | transmit b => cases h; constructor <;> simp
  | _ => cases h; constructor <;> rfl

theorem commandStep_dividers (h : commandStep inp s = .next t) : SameDividers s t := by
  obtain ⟨-, rfl⟩ | ⟨i, -, hi⟩ | ⟨-, -, rfl⟩ := commandStep_cases h
  · constructor <;> rfl
  · exact exec_dividers hi
  · constructor <;> rfl

theorem engines_preCnt : (engines inp s).preCnt =
    if s.tickEn then (if s.preCnt = s.cfg.tickPrescale - 1 then 0 else s.preCnt + 1) else s.preCnt := by
  simp [engines, tickAdvance_preCnt]

theorem engines_baseCnt : (engines inp s).baseCnt =
    if s.tickEn = true ∧ s.preCnt = s.cfg.tickPrescale - 1 then
      (if s.baseCnt = s.cfg.fastCounts - 1 then 0 else s.baseCnt + 1)
    else s.baseCnt := by
  simp [engines, tickAdvance_baseCnt]

theorem engines_slowCnt : (engines inp s).slowCnt =
    if fastTickDue s then (s.slowCnt + 1) % s.cfg.slowDiv else s.slowCnt := by
  simp [engines, tickAdvance_slowCnt, fastTickDue]

section Step
variable (h : step s = .next t) (hr : (currentInput s).rst = false)
include h hr

theorem step_preCnt : t.preCnt =
    if s.tickEn then (if s.preCnt = s.cfg.tickPrescale - 1 then 0 else s.preCnt + 1) else s.preCnt :=
  (commandStep_dividers (step_without_reset h hr)).preCnt.trans engines_preCnt

theorem step_baseCnt : t.baseCnt =
    if s.tickEn = true ∧ s.preCnt = s.cfg.tickPrescale - 1 then
      (if s.baseCnt = s.cfg.fastCounts - 1 then 0 else s.baseCnt + 1)
    else s.baseCnt :=
  (commandStep_dividers (step_without_reset h hr)).baseCnt.trans engines_baseCnt

theorem step_slowCnt : t.slowCnt = if fastTickDue s then (s.slowCnt + 1) % s.cfg.slowDiv else s.slowCnt :=
  (commandStep_dividers (step_without_reset h hr)).slowCnt.trans engines_slowCnt

theorem step_evFast : t.evFast = true ↔ fastTickDue s := by
  rw [(commandStep_strobes (step_without_reset h hr)).evFast]
  exact engines_evFast

theorem step_evSlow : t.evSlow = true ↔ slowTickDue s := by
  rw [(commandStep_strobes (step_without_reset h hr)).evSlow]
  exact engines_evSlow

end Step

/-! ### The closed form (R133) -/

/-- `P` of R133: the cycles per fast tick. -/
abbrev fastPeriod (c : Cfg) : Nat := c.tickPrescale * c.fastCounts

/-- The tick chain as R133 gives it `n` cycles after the one that started it. -/
structure TickChainAt (n : Nat) (s : State) : Prop where
  running : s.tickEn = true
  preCnt : s.preCnt = n % s.cfg.tickPrescale
  baseCnt : s.baseCnt = n / s.cfg.tickPrescale % s.cfg.fastCounts
  slowCnt : s.slowCnt = n / fastPeriod s.cfg % s.cfg.slowDiv
  evFast : s.evFast = true ↔ 0 < n ∧ n % fastPeriod s.cfg = 0
  evSlow : s.evSlow = true ↔ 0 < n ∧ n % (fastPeriod s.cfg * s.cfg.slowDiv) = 0

theorem TickChainAt.preCnt_last_iff (h : TickChainAt n s) (hc : s.cfg.wellFormed = true) :
    s.preCnt = s.cfg.tickPrescale - 1 ↔ s.cfg.tickPrescale ∣ n + 1 := by
  obtain ⟨-, hpre, -⟩ := cfg_bounds hc
  rw [h.preCnt, mod_eq_pred_iff hpre]

/-- Fast ticks come at the multiples of `P`. -/
theorem TickChainAt.fastTickDue_iff (h : TickChainAt n s) (hc : s.cfg.wellFormed = true) :
    fastTickDue s ↔ fastPeriod s.cfg ∣ n + 1 := by
  obtain ⟨-, -, hbase, -⟩ := cfg_bounds hc
  rw [fastTickDue, and_iff_right h.running, h.preCnt_last_iff hc, h.baseCnt, mod_eq_pred_iff hbase, mul_dvd_succ_iff]

/-- Slow ticks come at the multiples of `P * SLOW_DIV`. -/
theorem TickChainAt.slowTickDue_iff (h : TickChainAt n s) (hc : s.cfg.wellFormed = true) :
    slowTickDue s ↔ fastPeriod s.cfg * s.cfg.slowDiv ∣ n + 1 := by
  rw [slowTickDue, h.fastTickDue_iff hc, h.slowCnt, Nat.mod_add_mod, ← Nat.dvd_iff_mod_eq_zero,
    mul_dvd_succ_iff (a := fastPeriod s.cfg)]

/-- A step without reset takes the closed form to the next cycle: each divider counts where the one before it wraps. -/
theorem TickChainAt.step (h : TickChainAt n s) (hstep : step s = .next t) (hr : (currentInput s).rst = false) :
    TickChainAt (n + 1) t := by
  have hc := cfg_wellFormed_of_step hstep
  obtain ⟨-, hpre, hbase, -⟩ := cfg_bounds hc
  obtain ⟨hcfg, -, -⟩ := step_own_fields hstep
  obtain ⟨hrun, -⟩ := step_keeps_enables hstep hr
  refine ⟨hrun h.running, ?pre, ?base, ?slow, ?fastTick, ?slowTick⟩ <;> rw [hcfg]
  case pre => rw [step_preCnt hstep hr, if_pos h.running, h.preCnt, succ_mod_eq_wrap hpre]
  case base =>
    simp only [step_baseCnt hstep hr, h.running, true_and, h.preCnt_last_iff hc, succ_div_mod_eq_ite, h.baseCnt,
      succ_mod_eq_wrap hbase]
  case slow =>
    simp only [step_slowCnt hstep hr, h.fastTickDue_iff hc, succ_div_mod_eq_ite, h.slowCnt, Nat.mod_add_mod]
  case fastTick =>
    rw [step_evFast hstep hr, h.fastTickDue_iff hc, and_iff_right n.succ_pos, Nat.dvd_iff_mod_eq_zero]
  case slowTick =>
    rw [step_evSlow hstep hr, h.slowTickDue_iff hc, and_iff_right n.succ_pos, Nat.dvd_iff_mod_eq_zero]

/-- The closed form at the end of every run without reset. -/
theorem TickChainAt.run (h : TickChainAt 0 s) (hc : s.cfg.wellFormed = true)
    (hin : s.nextInputs n fun inp => inp.rst = false) : ∃ t, run n s = .next t ∧ TickChainAt n t := by
  obtain ⟨t, -, hrun, ht⟩ := run_induct (P := fun k t => Machine.run k s = .next t ∧ TickChainAt k t) (n := n)
    ⟨rfl, h⟩ fun k t hk ⟨hrun, ht⟩ => by
      obtain ⟨hcfg, -, -⟩ := run_own_fields k hrun
      obtain ⟨u, hu⟩ := step_total (hcfg ▸ hc)
      exact ⟨u, hu, by rw [run_succ hrun, hu], ht.step hu (nextInputs_run hin hk hrun)⟩
  exact ⟨t, hrun, ht⟩

/-! ### The cycle that starts the ticks -/

/-- Each of the three initialisations runs `TickInit` (R121, R141, R161). -/
theorem exec_initialisation_tickEn (hi : i ∈ [Instr.tickInit, .lightInit, .irInit]) (h : exec i s = .next t) :
    t.tickEn = true := by
  simp only [List.mem_cons, List.not_mem_nil, or_false] at hi
  obtain rfl | rfl | rfl := hi <;> cases h <;> rfl

/-- The chain stands at 0 until it is started (law 4 of R36), and the command comes after the tick sub-step (R101). -/
theorem tickChainAt_zero_of_initialisation (hinv : s.Inv) (hoff : s.tickEn = false) (hstep : step s = .next t)
    (hr : (currentInput s).rst = false) (hp : presents (currentInput s) i)
    (hi : i ∈ [Instr.tickInit, .lightInit, .irInit]) : TickChainAt 0 t := by
  obtain ⟨hpre, hbase, hslow, -, -⟩ := hinv.laws.tickEn_off hoff
  have hcmd := (step_of_command hinv.cfg_ok hr hp).symm.trans hstep
  refine ⟨exec_initialisation_tickEn hi hcmd, ?_, ?_, ?_, ?_, ?_⟩
  · simp [step_preCnt hstep hr, hoff, hpre]
  · simp [step_baseCnt hstep hr, hoff, hbase]
  · simp [step_slowCnt hstep hr, fastTickDue, hoff, hslow]
  · simp [step_evFast hstep hr, hoff]
  · simp [step_evSlow hstep hr, hoff]

/-- Settles O42: the starting cycle leaves the closed form at 0, and the run after it takes it on cycle by cycle. -/
theorem tickChainFollowsItsClosedForm : Obligations.TickChainFollowsItsClosedForm := by
  refine ⟨fun s inp rest i n hinv hoff hins hr hp hi hn hrest => ?_, rfl, rfl, rfl, rfl⟩
  obtain rfl : currentInput s = inp := currentInput_of_listed (by simp [hins])
  obtain ⟨s', hstart⟩ := step_total hinv.cfg_ok
  obtain ⟨hcfg, hins', -⟩ := step_own_fields hstart
  have hrest' : s'.nextInputs n fun inp => inp.rst = false := by
    rw [State.nextInputs, hins', hins]
    exact ⟨hn, hrest⟩
  obtain ⟨t, hrun, ht⟩ :=
    (tickChainAt_zero_of_initialisation hinv hoff hstart hr hp hi).run (hcfg ▸ hinv.cfg_ok) hrest'
  obtain ⟨hcfg', -, -⟩ := run_own_fields n hrun
  refine ⟨t, ?_, ?_⟩
  · rw [Nat.add_comm, run_add 1 n (show run 1 s = .next s' from hstart), hrun]
  · rw [← hcfg, ← hcfg']
    exact ⟨ht.preCnt, ht.baseCnt, ht.slowCnt, ht.evFast, ht.evSlow⟩

end Machine
end Sys2Proof
end

section
/-!
PROOFS. The statements of `spec/42_light_controller.md`: the Light Controller's four commands and the PWM step. A cycle
without reset calls `PwmStep` once for each served slot that holds it (R155), and nothing else moves the counter and the
gate; so a run is a number of `PwmStep` calls, and what these keep holds along every run.
-/

namespace Sys2Proof
namespace Machine

variable {s t : State} {inp : Input} {i : Instr} {prov : Byte} {n k : Nat}

/-! ### The pins (R56) -/

theorem led_of_open (hl : s.lightEn = true) (hg : s.gate = true) : led s = s.mask := if_pos ⟨hl, hg⟩

theorem led_of_closed (hg : s.gate = false) : led s = 0#3 := (lampPinsShowMaskThroughGate s).2 (.inr hg)

theorem led_of_disabled (hl : s.lightEn = false) : led s = 0#3 := (lampPinsShowMaskThroughGate s).2 (.inl hl)

/-- An open gate with an empty mask drives nothing. -/
theorem led_of_empty_mask (hm : s.mask = 0#3) : led s = 0#3 := by
  rw [led, hm, ite_self]

/-! ### The commands -/

theorem exec_lightInit (s : State) :
    exec .lightInit s = .next { s with tickEn := true, lightEn := true, fastSlot := .hPwm } := rfl

theorem exec_setBright (b : Byte) (s : State) :
    exec (.setBright b) s = .next { s with brightness := clampBrightness b } := rfl

theorem exec_setChannel {c : Channel} (hc : c ≠ 3#2) (on : Bool) (s : State) :
    exec (.setChannel c on) s = .next { s with mask := writeBit s.mask c.toNat on } :=
  if_neg hc

/-- Writing the value a bit already has changes nothing. -/
theorem writeBit_self {w : Nat} {v : BitVec w} {j : Nat} {b : Bool} (h : v.getLsbD j = b) : writeBit v j b = v := by
  apply BitVec.eq_of_getLsbD_eq
  intro l _
  rw [getLsbD_writeBit]
  split
  next hl => rw [hl.1, h]
  next => rfl

/-- Settles O18: the fields that `LIGHT_INIT` writes, and pins dark without `light_en` or with the gate closed. -/
theorem lightInitCompletes : Obligations.LightInitCompletes := by
  refine ⟨rfl, fun k => (isReserved_opsZ (i := .lightInit) (by simp [opsZ])).mpr, exec_lightInit, ?again, ?tickAfter,
    ?tickBefore, fun _ => led_of_disabled, ?fromReset⟩
  case again =>
    intro s ht hl
    simp [exec_lightInit, ht, hl]
  case tickAfter => rintro s _ ⟨⟩; rfl
  case tickBefore => rintro s _ ⟨⟩; rfl
  case fromReset => rintro c _ ⟨⟩; exact led_of_closed rfl

/-- Settles O19: the mask is the old one with one bit written. -/
theorem setChannelWritesOneMaskBit : Obligations.SetChannelWritesOneMaskBit := by
  refine ⟨fun c on _ => ?word, fun k hk => isReserved_setChannel_op.mpr hk.symm, fun s c on hc => ?effect⟩
  case word => rw [toNat_encode_setChannel]; cases on <;> rfl
  case effect =>
    have hlt : c.toNat < 3 := by
      have hne : c.toNat ≠ 3 := fun h => hc (BitVec.eq_of_toNat_eq h)
      omega
    have hbit : (writeBit s.mask c.toNat on).getLsbD c.toNat = on := by
      rw [getLsbD_writeBit, if_pos ⟨rfl, hlt⟩]
    refine ⟨_, exec_setChannel hc on s, hbit, fun j hj => ?_, writeBit_self, fun hl hg => ?_,
      fun hg => led_of_closed hg⟩
    · rw [getLsbD_writeBit, if_neg fun h => hj h.1]
    · have hpins : led { s with mask := writeBit s.mask c.toNat on } = writeBit s.mask c.toNat on :=
        led_of_open hl hg
      rw [hpins, hbit]

/-- Settles O21: an empty mask is dark whatever the gate. -/
theorem allOffClearsTheMask : Obligations.AllOffClearsTheMask :=
  ⟨rfl, fun _ => (isReserved_opsZ (i := .allOff) (by simp [opsZ])).mpr, fun _ => ⟨rfl, led_of_empty_mask rfl⟩⟩

/-! ### `PwmStep` and the fields it reads -/

theorem pwmStep_pwmCnt_lt (s : State) : (pwmStep s).pwmCnt < 100 := Nat.mod_lt _ (by decide)

/-- The PWM counter never meets a brightness of 100 or more. -/
theorem pwmStep_gate_of_hundred_le (h : 100 ≤ s.brightness) :
    (pwmStep s).gate = if (s.pwmCnt + 1) % 100 = 0 then true else s.gate := by
  rw [pwmStep_gate, ← pwmStep_pwmCnt, if_neg (ne_of_lt ((pwmStep_pwmCnt_lt s).trans_le h))]

/-- `PwmStep` writes the counter and the gate alone (R150). -/
theorem pwmStep_eq (s : State) :
    pwmStep s = { s with pwmCnt := (pwmStep s).pwmCnt, gate := (pwmStep s).gate } := rfl

/-- Settles O22: the clamp, and that the counter meets neither 100 nor a larger value. -/
theorem setBrightStoresTheClampedValue : Obligations.SetBrightStoresTheClampedValue := by
  have hop : (0x23#8, Instr.setBright) ∈ opsB := .head _
  refine ⟨fun b => ⟨encode_opsB _ hop, decode_opsB hop⟩, fun s b => exec_setBright b s, fun s v hv => ?_⟩
  rw [pwmStep_eq, pwmStep_eq { s with brightness := 100 }, pwmStep_gate_of_hundred_le hv,
    pwmStep_gate_of_hundred_le (Nat.le_refl 100)]
  rfl

/-- The three fields that `PwmStep` reads (R150) are as before. -/
structure SamePwm (s t : State) : Prop where
  brightness : t.brightness = s.brightness
  pwmCnt : t.pwmCnt = s.pwmCnt
  gate : t.gate = s.gate

theorem SamePwm.trans {u : State} (h : SamePwm s t) (h' : SamePwm t u) : SamePwm s u :=
  ⟨h'.brightness.trans h.brightness, h'.pwmCnt.trans h.pwmCnt, h'.gate.trans h.gate⟩

theorem SamePwm.after_pwmStep (h : SamePwm s t) : SamePwm (pwmStep s) (pwmStep t) where
  brightness := h.brightness
  pwmCnt := by rw [pwmStep_pwmCnt, pwmStep_pwmCnt, h.pwmCnt]
  gate := by rw [pwmStep_gate, pwmStep_gate, h.pwmCnt, h.brightness, h.gate]

theorem SamePwm.after_pwmSteps (h : SamePwm s t) (k : Nat) : SamePwm (pwmSteps k s) (pwmSteps k t) := by
  induction k with
  | zero => exact h
  | succ k ih => exact ih.after_pwmStep

theorem pwmSteps_add (j k : Nat) (s : State) : pwmSteps (j + k) s = pwmSteps j (pwmSteps k s) := by
  induction j with
  | zero => rw [Nat.zero_add, pwmSteps_zero]
  | succ j ih => rw [Nat.add_right_comm, pwmSteps_succ, pwmSteps_succ, ih]

/-! ### `PwmStep` within a PWM cycle, at its wrap and after it -/

theorem pwmSteps_pwmCnt_within (h : s.pwmCnt + k ≤ 99) : (pwmSteps k s).pwmCnt = s.pwmCnt + k := by
  induction k with
  | zero => rfl
  | succ k ih =>
    rw [pwmSteps_succ, pwmStep_pwmCnt, ih (by omega)]
    omega

/-- Up to tick 99 the gate is closed by the tick that meets the brightness, and by nothing else moved (R153). -/
theorem pwmSteps_gate_within (h : s.pwmCnt + k ≤ 99) : (pwmSteps k s).gate =
    if s.pwmCnt < s.brightness ∧ s.brightness ≤ s.pwmCnt + k then false else s.gate := by
  induction k with
  | zero => rw [if_neg (by omega), pwmSteps_zero]
  | succ k ih =>
    have hcnt : ((pwmSteps k s).pwmCnt + 1) % 100 = s.pwmCnt + k + 1 := by
      rw [pwmSteps_pwmCnt_within (by omega)]
      omega
    rw [pwmSteps_succ, pwmStep_gate, hcnt, pwmSteps_brightness, if_neg (Nat.succ_ne_zero _), ih (by omega)]
    by_cases hmeet : s.pwmCnt + k + 1 = s.brightness
    · rw [if_pos hmeet, if_pos (by omega)]
    · rw [if_neg hmeet]
      exact if_congr (by omega) rfl rfl

/-- At a wrap the gate opens, unless the brightness is 0 (R150). -/
theorem pwmStep_gate_of_wrap (h : (pwmStep s).pwmCnt = 0) : (pwmStep s).gate = true ↔ 0 < s.brightness := by
  rw [pwmStep_pwmCnt] at h
  rw [pwmStep_gate, h, if_pos rfl, Nat.pos_iff_ne_zero, ne_comm]
  simp

theorem pwmSteps_to_wrap (h : s.pwmCnt ≤ 99) :
    pwmSteps (100 - s.pwmCnt) s = pwmStep (pwmSteps (99 - s.pwmCnt) s) := by
  rw [← pwmSteps_succ, show 100 - s.pwmCnt = 99 - s.pwmCnt + 1 by omega]

theorem pwmSteps_pwmCnt_at_wrap (h : s.pwmCnt ≤ 99) : (pwmSteps (100 - s.pwmCnt) s).pwmCnt = 0 := by
  rw [pwmSteps_to_wrap h, pwmStep_pwmCnt, pwmSteps_pwmCnt_within (by omega), Nat.add_sub_cancel' h]

theorem pwmSteps_gate_at_wrap (h : s.pwmCnt ≤ 99) :
    (pwmSteps (100 - s.pwmCnt) s).gate = true ↔ 0 < s.brightness := by
  have hwrap := pwmSteps_pwmCnt_at_wrap h
  rw [pwmSteps_to_wrap h] at hwrap ⊢
  rw [pwmStep_gate_of_wrap hwrap, pwmSteps_brightness]

/-- Settles O46: the gate within the PWM cycle and at its wrap, from the state with the new brightness. -/
theorem brightnessChangeTakesEffectAtPwmEvents : Obligations.BrightnessChangeTakesEffectAtPwmEvents := by
  intro s0 s b hcnt hs
  obtain ⟨hb, hq, hg⟩ : s.brightness = clampBrightness b ∧ s.pwmCnt = s0.pwmCnt ∧ s.gate = s0.gate := by
    cases hs
    exact ⟨rfl, rfl, rfl⟩
  rw [← hq] at hcnt
  rw [← hb, ← hq, ← hg]
  refine ⟨rfl, rfl, fun hlt => ⟨fun k hk h99 => ?_, fun k hk h99 => ?_⟩, fun hle k h99 => ?_,
    pwmSteps_pwmCnt_at_wrap hcnt, pwmSteps_gate_at_wrap hcnt⟩ <;> rw [pwmSteps_gate_within h99]
  · rw [if_neg fun h => absurd h.2 (Nat.not_le.mpr hk)]
  · rw [if_pos ⟨hlt, hk⟩]
  · rw [if_neg fun h => absurd h.1 (Nat.not_lt.mpr hle)]

/-- R151's steady state: the gate is open exactly below the brightness. -/
structure SteadyPwm (s : State) : Prop where
  pwmCnt_le : s.pwmCnt ≤ 99
  gate_iff : s.gate = true ↔ s.pwmCnt < s.brightness

theorem SteadyPwm.after_pwmStep (h : SteadyPwm s) : SteadyPwm (pwmStep s) := by
  obtain ⟨hcnt, hgate⟩ := h
  refine ⟨Nat.le_of_lt_succ (pwmStep_pwmCnt_lt s), ?_⟩
  by_cases hwrap : (pwmStep s).pwmCnt = 0
  · rw [pwmStep_gate_of_wrap hwrap, hwrap]
    rfl
  · have hn : (s.pwmCnt + 1) % 100 = s.pwmCnt + 1 := by
      rw [pwmStep_pwmCnt] at hwrap
      omega
    rw [pwmStep_pwmCnt, pwmStep_gate, pwmStep_brightness, hn, if_neg (Nat.succ_ne_zero _)]
    split
    next heq => simp [heq]
    next hne =>
      rw [hgate]
      omega

theorem SteadyPwm.after_pwmSteps (h : SteadyPwm s) (k : Nat) : SteadyPwm (pwmSteps k s) := by
  induction k with
  | zero => exact h
  | succ k ih => exact ih.after_pwmStep

theorem steadyPwm_at_wrap (h : s.pwmCnt ≤ 99) : SteadyPwm (pwmSteps (100 - s.pwmCnt) s) where
  pwmCnt_le := by rw [pwmSteps_pwmCnt_at_wrap h]; exact Nat.zero_le _
  gate_iff := by rw [pwmSteps_gate_at_wrap h, pwmSteps_pwmCnt_at_wrap h, pwmSteps_brightness]

/-- Calls that take the counter past a wrap end in the steady state. -/
theorem steadyPwm_of_wrap (h : s.pwmCnt ≤ 99) (hk : 100 ≤ s.pwmCnt + k) : SteadyPwm (pwmSteps k s) := by
  obtain ⟨j, rfl⟩ := Nat.exists_eq_add_of_le' (show 100 - s.pwmCnt ≤ k by omega)
  rw [pwmSteps_add]
  exact (steadyPwm_at_wrap h).after_pwmSteps j

/-- Brightness 0 (R152): a call closes the gate at the wrap and never opens it. -/
theorem pwmSteps_gate_of_brightness_zero (hb : s.brightness = 0) (hg : s.gate = false) (k : Nat) :
    (pwmSteps k s).gate = false := by
  induction k with
  | zero => exact hg
  | succ k ih =>
    rw [pwmSteps_succ, pwmStep_gate, pwmSteps_brightness, hb, ih]
    split_ifs <;> rfl

/-- Brightness 100 (R152): no count meets it. -/
theorem pwmSteps_gate_of_brightness_hundred (hb : s.brightness = 100) (hg : s.gate = true) (k : Nat) :
    (pwmSteps k s).gate = true := by
  induction k with
  | zero => exact hg
  | succ k ih => rw [pwmSteps_succ, pwmStep_gate_of_hundred_le (by rw [pwmSteps_brightness, hb]), ih, ite_self]

/-! ### The calls of `PwmStep` in a cycle (R155) -/

/-- How often the next step calls `PwmStep`: once for each slot that a tick of the cycle serves and that holds it. -/
def pwmCalls (s : State) : Nat :=
  (if slowTickDue s ∧ s.slowSlot = .hPwm then 1 else 0) + (if fastTickDue s ∧ s.fastSlot = .hPwm then 1 else 0)

theorem pwmCalls_of_slowTick (hs : slowTickDue s) : pwmCalls s =
    (if s.slowSlot = .hPwm then 1 else 0) + (if s.fastSlot = .hPwm then 1 else 0) := by
  rw [pwmCalls, if_congr (and_iff_right hs) rfl rfl, if_congr (and_iff_right hs.1) rfl rfl]

theorem pwmCalls_of_fastTick_alone (hf : fastTickDue s) (hs : ¬slowTickDue s) :
    pwmCalls s = if s.fastSlot = .hPwm then 1 else 0 := by
  rw [pwmCalls, if_neg fun h => hs h.1, if_congr (and_iff_right hf) rfl rfl, Nat.zero_add]

theorem pwmCalls_of_no_tick (hf : ¬fastTickDue s) : pwmCalls s = 0 := by
  rw [pwmCalls, if_neg fun h => hf h.1.1, if_neg fun h => hf h.1]

/-- Of the handlers only `H_PWM` moves the counter and the gate (R132). -/
theorem SamePwm.after_invoke (h : SamePwm s t) (handler : HandlerId) (which : TickSlot) (prov : Byte) :
    SamePwm (pwmSteps (if handler = .hPwm then 1 else 0) s) (invoke handler which prov t) := by
  cases handler with
  | hNone => exact h
  | hPwm => exact h.after_pwmStep
  | hIrtx => exact h.trans ⟨by simp [invoke], by simp [invoke], by simp [invoke]⟩
  | hExt => exact h.trans ⟨by simp [invoke], by simp [invoke], by simp [invoke]⟩

theorem SamePwm.after_tickAdvance (h : SamePwm s t) (prov : Byte) :
    SamePwm (pwmSteps (pwmCalls t) s) (tickAdvance prov t) := by
  by_cases hf : fastTickDue t
  · have hstart : SamePwm s (strobeFast (setBaseCnt 0 (setPreCnt 0 t))) := h.trans ⟨rfl, rfl, rfl⟩
    have hfast := hstart.after_invoke t.fastSlot .fast prov
    rw [tickAdvance_fast hf]
    by_cases hs : slowTickDue t
    · have hserved := hfast.trans (u := strobeSlow (countSlow _)) ⟨rfl, rfl, rfl⟩
      rw [fastTick_slow (s := setBaseCnt 0 (setPreCnt 0 t)) hs.2, slowTick, countSlow_slowSlot, invoke_slowSlot,
        pwmCalls_of_slowTick hs, pwmSteps_add]
      exact hserved.after_invoke t.slowSlot .slow prov
    · rw [fastTick_no_slow (s := setBaseCnt 0 (setPreCnt 0 t)) fun hw => hs ⟨hf, hw⟩,
        pwmCalls_of_fastTick_alone hf hs]
      exact hfast.trans ⟨rfl, rfl, rfl⟩
  · obtain ⟨p, b, e⟩ := tickAdvance_no_tick hf prov
    rw [e, pwmCalls_of_no_tick hf]
    exact h.trans ⟨rfl, rfl, rfl⟩

/-- The engines before the tick chain neither move the PWM nor decide which slots are served. -/
theorem engines_samePwm : SamePwm (pwmSteps (pwmCalls s) s) (engines inp (consumeInput s)) := by
  have hstart : SamePwm s
      (carrierAdvance (rxAdvance inp.rxLine (txAdvance (clearStrobes (consumeInput s))))) := by
    constructor <;> simp
  have hcalls : pwmCalls (carrierAdvance (rxAdvance inp.rxLine (txAdvance (clearStrobes (consumeInput s))))) =
      pwmCalls s := by
    simp [pwmCalls, fastTickDue, slowTickDue]
  exact hcalls ▸ hstart.after_tickAdvance inp.provByte

/-- No command moves the PWM counter or the gate. -/
theorem exec_pwm (h : exec i s = .next t) : t.pwmCnt = s.pwmCnt ∧ t.gate = s.gate := by
  cases i with
  | setChannel c on =>
    simp only [exec, execSetChannel] at h
    split at h <;> cases h <;> exact ⟨rfl, rfl⟩
  | transmit b => cases h; simp
  | _ => cases h; exact ⟨rfl, rfl⟩

theorem commandStep_pwm (h : commandStep inp s = .next t) : t.pwmCnt = s.pwmCnt ∧ t.gate = s.gate := by
  obtain ⟨-, rfl⟩ | ⟨i, -, hi⟩ | ⟨-, -, rfl⟩ := commandStep_cases h
  · exact ⟨rfl, rfl⟩
  · exact exec_pwm hi
  · exact ⟨rfl, rfl⟩

/-- Only `SET_BRIGHT` writes the brightness (R147). -/
theorem exec_brightness (hi : ∀ b, i = .setBright b → clampBrightness b = s.brightness) (h : exec i s = .next t) :
    t.brightness = s.brightness := by
  cases i with
  | setBright b => cases h; exact hi b rfl
  | setChannel c on =>
    simp only [exec, execSetChannel] at h
    split at h <;> cases h <;> rfl
  | transmit b => cases h; simp
  | _ => cases h; rfl

/-- No other brightness is stored in a cycle with these inputs. -/
abbrev keepsBrightness (p : Nat) (inp : Input) : Prop := ∀ b, presents inp (.setBright b) → clampBrightness b = p

theorem commandStep_brightness (hb : keepsBrightness s.brightness inp) (h : commandStep inp s = .next t) :
    t.brightness = s.brightness := by
  obtain ⟨-, rfl⟩ | ⟨i, hp, hi⟩ | ⟨-, -, rfl⟩ := commandStep_cases h
  · rfl
  · exact exec_brightness (fun b e => hb b (e ▸ hp)) hi
  · rfl

/-- R155: after a cycle without reset the counter and the gate are those of the cycle's calls. -/
theorem step_pwm (h : step s = .next t) (hr : (currentInput s).rst = false) :
    t.pwmCnt = (pwmSteps (pwmCalls s) s).pwmCnt ∧ t.gate = (pwmSteps (pwmCalls s) s).gate := by
  obtain ⟨hcnt, hgate⟩ := commandStep_pwm (step_without_reset h hr)
  exact ⟨hcnt.trans engines_samePwm.pwmCnt, hgate.trans engines_samePwm.gate⟩

theorem step_brightness (h : step s = .next t) (hr : (currentInput s).rst = false)
    (hb : keepsBrightness s.brightness (currentInput s)) : t.brightness = s.brightness := by
  have hstay : (engines (currentInput s) (consumeInput s)).brightness = s.brightness :=
    engines_samePwm.brightness.trans (pwmSteps_brightness _ s)
  rw [← hstay] at hb ⊢
  exact commandStep_brightness hb (step_without_reset h hr)

theorem step_samePwm (h : step s = .next t) (hr : (currentInput s).rst = false)
    (hb : keepsBrightness s.brightness (currentInput s)) : SamePwm (pwmSteps (pwmCalls s) s) t :=
  have ⟨hcnt, hgate⟩ := step_pwm h hr
  ⟨(step_brightness h hr hb).trans (pwmSteps_brightness _ s).symm, hcnt, hgate⟩

/-- Settles O58: the number of calls for each content of the two slots. -/
theorem pwmStepRunsOncePerServedSlotThatHoldsIt : Obligations.PwmStepRunsOncePerServedSlotThatHoldsIt := by
  refine ⟨fun _ => rfl, fun _ => led_of_empty_mask, fun s hc hr => ?_⟩
  obtain ⟨t, hstep⟩ := step_total hc
  have hpwm := step_pwm hstep hr
  refine ⟨t, hstep, fun hf hs => ?_, fun hf hs => ?_, fun hf hs => ?_, fun hf hs => ?_⟩
  · rwa [pwmCalls, if_neg hs, if_neg hf] at hpwm
  · rwa [pwmCalls, if_neg hs, if_pos hf] at hpwm
  · rwa [pwmCalls, if_pos hs, if_neg hf] at hpwm
  · rwa [pwmCalls, if_pos hs, if_pos hf] at hpwm

/-! ### Runs (R151, R152) -/

/-- A run without reset in which no other brightness is stored is, for the PWM, a number of `PwmStep` calls. -/
theorem run_samePwm (hc : s.cfg.wellFormed = true)
    (hin : s.nextInputs n fun inp => inp.rst = false ∧ keepsBrightness s.brightness inp) :
    ∃ t k, run n s = .next t ∧ SamePwm (pwmSteps k s) t := by
  obtain ⟨t, -, hrun, k, ht⟩ :=
    run_induct (P := fun m t => run m s = .next t ∧ ∃ k, SamePwm (pwmSteps k s) t) (n := n)
      ⟨rfl, 0, rfl, rfl, rfl⟩ fun m t hm ⟨hrun, k, ht⟩ => by
        obtain ⟨hcfg, -, -⟩ := run_own_fields m hrun
        obtain ⟨hr, hb⟩ := nextInputs_run hin hm hrun
        obtain ⟨u, hu⟩ := step_total (hcfg ▸ hc)
        rw [← pwmSteps_brightness k s, ← ht.brightness] at hb
        refine ⟨u, hu, by rw [run_succ hrun, hu], pwmCalls t + k, ?_⟩
        rw [pwmSteps_add]
        exact (ht.after_pwmSteps _).trans (step_samePwm hu hr hb)
  exact ⟨t, k, hrun, ht⟩

/-- Settles O44: a wrap leads into the steady state, and the calls that make up a run keep it. -/
theorem gateIsOpenExactlyBelowTheBrightness : Obligations.GateIsOpenExactlyBelowTheBrightness := by
  refine ⟨fun s => pwmStep_gate_of_wrap, fun s k hcnt hk => ?pastWrap, fun s n hc hcnt hgate hin => ?run⟩
  case pastWrap =>
    rw [(steadyPwm_of_wrap hcnt hk).gate_iff, pwmSteps_brightness]
  case run =>
    obtain ⟨t, k, hrun, hbright, htcnt, htgate⟩ := run_samePwm hc hin
    have hsteady := SteadyPwm.after_pwmSteps ⟨hcnt, hgate⟩ k
    have hopen : t.gate = true ↔ t.pwmCnt < s.brightness := by
      rw [htgate, htcnt, hsteady.gate_iff, pwmSteps_brightness]
    refine ⟨t, hrun, hbright.trans (pwmSteps_brightness k s), htcnt ▸ hsteady.pwmCnt_le, hopen, fun hl => ?_⟩
    split
    next hlt => exact led_of_open hl (hopen.mpr hlt)
    next hge => exact led_of_closed (Bool.eq_false_iff.mpr (mt hopen.mp hge))

/-- Settles O45: no call opens the gate at brightness 0, and none closes it at brightness 100. -/
theorem brightnessEndsAreAlwaysOffAndAlwaysOn : Obligations.BrightnessEndsAreAlwaysOffAndAlwaysOn := by
  refine ⟨fun s hb hwrap => ?wrap, fun s n hc hin => ?run⟩
  case wrap =>
    rw [Bool.eq_false_iff, ne_eq, pwmStep_gate_of_wrap hwrap, hb]
    exact Nat.lt_irrefl 0
  case run =>
    obtain ⟨t, k, hrun, hpwm⟩ := run_samePwm hc hin
    refine ⟨fun hb hg => ?_, fun hb hg => ?_⟩
    · have hclosed := hpwm.gate.trans (pwmSteps_gate_of_brightness_zero hb hg k)
      exact ⟨t, hrun, hclosed, led_of_closed hclosed⟩
    · exact ⟨t, hrun, hpwm.gate.trans (pwmSteps_gate_of_brightness_hundred hb hg k)⟩

end Machine
end Sys2Proof
end

section
/-!
PROOFS. The statements of `spec/43_ir_carrier.md`: the rounding of `CARRIER_HALF` (R166), the closed form of the carrier
(R164) and that it runs freely (R165). While `ir_en = 1` a cycle without reset moves the counter and the level by one
function of these two and of `CARRIER_HALF`, whatever else it does; so `n` cycles are its `n`-fold iterate. R165 reads
this off directly, and R164 is the iterate in closed form.
-/

namespace Sys2Proof
namespace Machine

variable {s s' t : State} {inp : Input} {i : Instr} {n half : Nat}

/-! ### `CARRIER_HALF` (R166) -/

/-- The two divisions of R6 are one. -/
theorem carrierHalf_eq_div (c : Cfg) : carrierHalf c = c.fClk / 76000 := Nat.div_div_eq_div_mul _ _ _

/-- Settles O38: a quotient rounds toward zero, and is 0 exactly below the divisor. -/
theorem carrierHalfRoundsTowardZero : Obligations.CarrierHalfRoundsTowardZero := by
  refine ⟨fun c => ⟨Nat.mul_div_le _ 2, ?ideal, ?none, ?some⟩, fun c => ⟨?_, ?_, ?_, ?_⟩⟩
  case ideal =>
    rw [← mul_assoc, carrierHalf_eq_div]
    exact Nat.mul_div_le c.fClk 76000
  case none =>
    rw [carrierHalf_eq_div]
    exact Nat.div_eq_of_lt
  case some =>
    rw [carrierHalf_eq_div]
    exact fun h => Nat.div_pos h (by decide)
  all_goals
    intro h
    rw [carrierHalf_eq_div, h]

/-! ### The square wave -/

/-- The carrier's own two fields (R30): the cycles elapsed in the half period and the present level. -/
@[ext] structure Wave where
  count : Nat
  level : Bool

/-- The carrier's part of a state. -/
def State.wave (s : State) : Wave := { count := s.carCnt, level := s.carrier }

/-- One cycle of a square wave with half periods of `half` cycles (R163). -/
def Wave.next (half : Nat) (w : Wave) : Wave :=
  if w.count = half - 1 then { count := 0, level := !w.level } else { count := w.count + 1, level := w.level }

/-- The square wave `n` cycles after it stood at the start of a low half period: the half periods passed are counted by
the quotient, and their parity is the level. -/
theorem Wave.next_iterate (hpos : 0 < half) (n : Nat) : (Wave.next half)^[n] { count := 0, level := false } =
    { count := n % half, level := decide (n / half % 2 = 1) } := by
  induction n with
  | zero => simp
  | succ n ih =>
    rw [Function.iterate_succ_apply', ih, Wave.next]
    simp only [succ_mod_eq_wrap hpos, succ_div_mod_eq_ite, ← mod_eq_pred_iff hpos]
    split
    next =>
      ext
      · rfl
      · simp only [← decide_not, decide_eq_decide]
        omega
    next => rfl

/-! ### What a step without reset does to the wave -/

theorem carrierAdvance_wave : (carrierAdvance s).wave =
    if s.irEn then s.wave.next (carrierHalf s.cfg) else s.wave := by
  unfold carrierAdvance
  split
  next => exact apply_ite State.wave _ _ _
  next => rfl

/-- `CarrierAdvance` is the only engine that writes the counter or the level. -/
theorem engines_wave : (engines inp s).wave =
    if s.irEn then s.wave.next (carrierHalf s.cfg) else s.wave := by
  have hafter (prov : Byte) (t : State) : (tickAdvance prov t).wave = t.wave := by simp [State.wave]
  have hbefore (line : Bool) : (rxAdvance line (txAdvance (clearStrobes s))).wave = s.wave := by simp [State.wave]
  rw [engines, hafter, carrierAdvance_wave, hbefore]
  simp

/-- No command writes the counter or the level (R69, R165). -/
theorem exec_wave (h : exec i s = .next t) : t.wave = s.wave := by
  cases i with
  | setChannel c on =>
    simp only [exec, execSetChannel] at h
    split at h <;> cases h <;> rfl
  | transmit b => cases h; simp [State.wave]
  | _ => cases h; rfl

theorem commandStep_wave (h : commandStep inp s = .next t) : t.wave = s.wave := by
  obtain ⟨-, rfl⟩ | ⟨i, -, hi⟩ | ⟨-, -, rfl⟩ := commandStep_cases h
  · rfl
  · exact exec_wave hi
  · rfl

theorem step_wave (h : step s = .next t) (hr : (currentInput s).rst = false) :
    t.wave = if s.irEn then s.wave.next (carrierHalf s.cfg) else s.wave :=
  (commandStep_wave (step_without_reset h hr)).trans engines_wave

/-! ### Runs (R165) -/

/-- The running carrier after `n` cycles without reset depends on the configuration and its own two fields alone. -/
theorem run_wave (hc : s.cfg.wellFormed = true) (hon : s.irEn = true)
    (hin : s.nextInputs n fun inp => inp.rst = false) :
    ∃ t, run n s = .next t ∧ t.wave = (Wave.next (carrierHalf s.cfg))^[n] s.wave := by
  obtain ⟨t, -, hrun, -, hwave⟩ :=
    run_induct (P := fun k t => run k s = .next t ∧ t.irEn = true ∧
      t.wave = (Wave.next (carrierHalf s.cfg))^[k] s.wave) (n := n)
      ⟨rfl, hon, rfl⟩ fun k t hk ⟨hrun, hon, hwave⟩ => by
        obtain ⟨hcfg, -, -⟩ := run_own_fields k hrun
        obtain ⟨u, hu⟩ := step_total (hcfg ▸ hc)
        have hr := nextInputs_run hin hk hrun
        obtain ⟨-, -, hkeep, -⟩ := step_keeps_enables hu hr
        refine ⟨u, hu, by rw [run_succ hrun, hu], hkeep hon, ?_⟩
        rw [step_wave hu hr, if_pos hon, hcfg, hwave, Function.iterate_succ_apply']
  exact ⟨t, hrun, hwave⟩

/-- Settles O49: both runs iterate the same function on the same two fields. -/
theorem carrierIsFreeRunning : Obligations.CarrierIsFreeRunning := by
  intro n s s' hc hcfg hon hon' hcnt hlevel hin hin'
  obtain ⟨t, hrun, hwave⟩ := run_wave hc hon hin
  obtain ⟨t', hrun', hwave'⟩ := run_wave (hcfg ▸ hc) hon' hin'
  have hstart : s'.wave = s.wave := Wave.ext hcnt hlevel
  have hend : t'.wave = t.wave := by rw [hwave', hwave, hcfg, hstart]
  exact ⟨t, t', hrun, hrun', congrArg Wave.count hend, congrArg Wave.level hend⟩

/-! ### The cycle that starts the carrier (R161, R164) -/

/-- A run starts with its first step. -/
theorem run_succ_of_step (h : step s = .next s') : run (n + 1) s = run n s' := by
  rw [Nat.add_comm, run_add 1 n (show run 1 s = .next s' from h)]

/-- The carrier stands at 0 until it is started (law 3 of R36), and the command comes after the carrier's sub-step
(R101). -/
theorem step_of_irInit (hinv : s.Inv) (hoff : s.irEn = false) (hstep : step s = .next t)
    (hr : (currentInput s).rst = false) (hp : presents (currentInput s) .irInit) :
    t.irEn = true ∧ t.wave = { count := 0, level := false } := by
  obtain ⟨hcnt, hlevel, -, -⟩ := hinv.laws.irEn_off hoff
  have hcmd := (step_of_command hinv.cfg_ok hr hp).symm.trans hstep
  constructor
  · cases hcmd; rfl
  · rw [step_wave hstep hr, hoff]
    exact Wave.ext hcnt hlevel

/-- Settles O48: the starting cycle leaves a wave at the start of a low half period, and the run after it iterates it. -/
theorem carrierFollowsItsClosedForm : Obligations.CarrierFollowsItsClosedForm := by
  refine ⟨fun s inp rest n hinv hoff hins hr hp hn hrest => ?_, rfl, rfl⟩
  obtain rfl : currentInput s = inp := currentInput_of_listed (by simp [hins])
  obtain ⟨s', hstart⟩ := step_total hinv.cfg_ok
  obtain ⟨hon, hwave⟩ := step_of_irInit hinv hoff hstart hr hp
  obtain ⟨hcfg, hins', -⟩ := step_own_fields hstart
  have hrest' : s'.nextInputs n fun inp => inp.rst = false := by
    rw [State.nextInputs, hins', hins]
    exact ⟨hn, hrest⟩
  obtain ⟨t, hrun, ht⟩ := run_wave (hcfg ▸ hinv.cfg_ok) hon hrest'
  obtain ⟨hpos, -, -⟩ := derived_bounds hinv.cfg_ok
  rw [hwave, hcfg, Wave.next_iterate hpos] at ht
  exact ⟨t, by rw [run_succ_of_step hstart, hrun], congrArg Wave.count ht,
    (congrArg (·.level = true) ht).to_iff.trans decide_eq_true_iff⟩

end Machine
end Sys2Proof
end

section
/-!
PROOFS. The statements of `spec/44_ir_framer.md`: the two hook flags (R179, R180), the push (R188) and the periodic step
(R196). A push does not read `txp_reg`, and the end of a frame leaves the transmitter idle: that is why `TRANSMIT` is
independent of the provider, and why a push of the cycle a frame ends is accepted.
-/

namespace Sys2Proof
namespace Machine

variable {s : State}

/-! ### The commands -/

theorem exec_regRxh (p : Bool) (s : State) : exec (.regRxh p) s = .next { s with rxhReg := p } := rfl

theorem exec_regTxp (p : Bool) (s : State) : exec (.regTxp p) s = .next { s with txpReg := p } := rfl

theorem exec_transmit (b : Byte) (s : State) : exec (.transmit b) s = .next (txPush b s) := rfl

/-! ### The hook flags -/

/-- Settles O25: the drain is unconditional, and the interrupt strobe is joined with the hook flag. -/
theorem registerReceiveHandlerCompletes : Obligations.RegisterReceiveHandlerCompletes := by
  have hop : (0x34#8, Instr.regRxh) ∈ opsP := .head _
  refine ⟨fun p => ?word, fun _ => (isReserved_opsP hop).mpr, fun s p => exec_regRxh p s,
    fun s => ⟨rxComplete_rxData s, fun hoff => ?silent, fun hon => ?raised⟩⟩
  case word => cases p <;> rfl
  case silent => rw [rxComplete_irqRx, hoff, Bool.or_false]
  case raised => rw [rxComplete_irqRx, hon, Bool.or_true]

/-- `TxPush` neither reads nor writes `txp_reg`: setting it for the push and back afterwards makes no difference. -/
theorem txPush_txpReg_restored (b : Byte) (p : Bool) (s : State) :
    txPush b s = { txPush b { s with txpReg := p } with txpReg := s.txpReg } := by
  unfold txPush
  split <;> rfl

/-- Settles O26: the periodic step is guarded by `txp_reg`, the push is not. -/
theorem registerTransmitProviderCompletes : Obligations.RegisterTransmitProviderCompletes := by
  have hop : (0x35#8, Instr.regTxp) ∈ opsP := .tail _ (.head _)
  refine ⟨fun p => ?word, fun _ => (isReserved_opsP hop).mpr, fun s p => exec_regTxp p s,
    fun s prov hoff => irPeriodicStep_off (.inr hoff), ?transmit⟩
  case word => cases p <;> rfl
  case transmit =>
    rintro s p b _ _ ⟨⟩ ⟨⟩
    exact congrArg Host.Outcome.next (txPush_txpReg_restored b p s)

/-! ### The push and the end of a frame -/

/-- The sub-step that ends a frame leaves the transmitter idle (R190). -/
theorem txAdvance_frame_end_txBusy (h : frameEnds s) : (txAdvance s).txBusy = false := by
  rw [txAdvance_frame_end h]
  simp

/-- Settles O28: a push in the cycle a frame ends meets a transmitter that `TxAdvance` has just freed. -/
theorem pushIsAcceptedWhenIdleAndDroppedOtherwise : Obligations.PushIsAcceptedWhenIdleAndDroppedOtherwise := by
  refine fun s b => ⟨fun hon hidle => ?accepted, fun hoff => ?dropped, fun hend hon => ?afterFrame⟩
  case accepted =>
    rw [exec_transmit, txPush_accepted hon hidle]
    exact ⟨rfl, rfl⟩
  case dropped =>
    rw [exec_transmit, txPush_dropped hoff]
    exact ⟨rfl, rfl⟩
  case afterFrame =>
    have hon' : (txAdvance s).irEn = true := by rw [txAdvance_irEn, hon]
    exact txPush_accepted hon' (txAdvance_frame_end_txBusy hend)

/-- Settles O29: the push of the periodic step meets the transmitter as the step found it. -/
theorem periodicStepSuspendsReceiveAndPushes : Obligations.PeriodicStepSuspendsReceiveAndPushes := by
  refine fun s prov => ⟨fun hon hprov hidle => ?idle, fun hon hprov hbusy => ?busy, irPeriodicStep_off,
    fun hend hintent => (txAdvance_rxHwEn s).mpr (.inr ⟨hend, hintent⟩)⟩
  case idle => exact (irPeriodicStep_on hon hprov).trans (txPush_accepted hon hidle)
  case busy => exact (irPeriodicStep_on hon hprov).trans (txPush_dropped (.inr hbusy))

end Machine
end Sys2Proof
end

section
/-!
PROOFS. The statements of `spec/70_reset_and_hazards.md` about the block after reset: its outputs (R252) and that it stays
inert until commanded (R251). In an uncommanded cycle of a block that no command has started, each engine but the
receiver's edge memory is off, so the run from reset is known state by state.
-/

namespace Sys2Proof
namespace Machine

variable {s : State} {inp : Input} {ins : List Input} {k : Nat}

/-! ### A cycle of an unstarted block -/

/-- With the tick scheduler, the IR Subsystem and the transmitter all off, only `rx_prev` still follows its input
(R198). -/
theorem engines_off (htick : s.tickEn = false) (hir : s.irEn = false) (htx : s.txBusy = false) :
    engines inp s = setRxPrev inp.rxLine (clearStrobes s) := by
  have htransmit : txAdvance (clearStrobes s) = clearStrobes s := txAdvance_idle htx
  have hreceive : rxAdvance inp.rxLine (clearStrobes s) = setRxPrev inp.rxLine (clearStrobes s) :=
    congrArg (setRxPrev inp.rxLine) (rxEngine_off (by simp [hir]))
  rw [engines, htransmit, hreceive, carrierAdvance_off (by simp [hir]), tickAdvance_off (by simp [htick])]

/-! ### The run from reset -/

/-- `rx_line` in the last of the first `k` cycles; before the first, the reset value of `rx_prev` (R40). -/
def lineBefore (ins : List Input) (k : Nat) : Bool := (((ins.take k).getLast?).map Input.rxLine).getD true

theorem lineBefore_succ (h : ins[k]? = some inp) : lineBefore ins (k + 1) = inp.rxLine := by
  simp [lineBefore, List.take_add_one, h]

/-- `ResetState` but for `rx_prev`, after `k` cycles of the input stream `ins`. -/
def inertState (c : Cfg) (ins : List Input) (k : Nat) : State :=
  { State.resetWith c with rxPrev := lineBefore ins k, inputs := ins.drop k, cycle := k }

theorem inertState_zero (c : Cfg) (ins : List Input) :
    inertState c ins 0 = { State.resetWith c with inputs := ins } := rfl

/-- The engines of an inert block, the cycle's input taken, leave the inert block of the next cycle. -/
theorem engines_inertState (c : Cfg) (h : ins[k]? = some inp) :
    engines inp (consumeInput (inertState c ins k)) = inertState c ins (k + 1) := by
  rw [engines_off rfl rfl rfl, inertState, inertState, lineBefore_succ h, ← List.tail_drop]
  rfl

/-- One cycle without reset and without a command. -/
theorem step_inertState {c : Cfg} (hc : c.wellFormed = true) (h : ins[k]? = some inp) (hr : inp.rst = false)
    (hv : inp.cmdValid = false) : step (inertState c ins k) = .next (inertState c ins (k + 1)) := by
  have hinp : currentInput (inertState c ins k) = inp := currentInput_of_listed (by simp [inertState, h])
  rw [step_eq hc, hinp, if_neg (by simp [hr]), commandStep_no_command _ hv, engines_inertState c h]

/-- Settles O12, by induction over the run: each of its cycles leads from one inert state to the next. -/
theorem blockStaysInResetStateUntilCommanded : Obligations.BlockStaysInResetStateUntilCommanded := by
  intro c ins n hc hn hquiet
  obtain ⟨t, hrun, rfl⟩ : ∃ t, run n (inertState c ins 0) = .next t ∧ t = inertState c ins n := by
    refine run_induct (P := fun k t => t = inertState c ins k) rfl ?_
    rintro k _ hk rfl
    have hlisted : k < ins.length := by omega
    obtain ⟨hr, hv⟩ := hquiet ins[k] (List.mem_take_iff_getElem.mpr ⟨k, by omega, rfl⟩)
    exact ⟨_, step_inertState hc (List.getElem?_eq_getElem hlisted) hr hv, rfl⟩
  rwa [inertState_zero] at hrun

/-! ### The outputs after reset -/

/-- Settles O11: a transmitter that is not busy leaves its line idle, and the pins of an uninitialised Light Controller
are dark; the other ports are fields of `ResetState`. -/
theorem outputsInResetState : Obligations.OutputsInResetState := by
  intro c
  have hline : txLine (State.resetWith c) = true := if_pos rfl
  have hled : led (State.resetWith c) = 0#3 := led_of_disabled rfl
  constructor
  · rw [outputs, hline, hled]
    rfl
  · rw [irMod, resetWith_carrier, Bool.false_and]

end Machine
end Sys2Proof
end

section
/-!
PROOFS. What the statements about frames in flight share: runs over listed inputs, the bit clock of both directions,
whose position at an offset is a quotient and a remainder, and the part of a cycle that follows the receiver's sub-step
(R100): the periodic step, if a tick of the cycle runs it, at most once in effect (R135).
-/

namespace Sys2Proof
namespace Machine

variable {s t u : State} {inp : Input} {prov b : Byte} {n k : Nat}

/-! ### Runs over listed inputs -/

/-- A run whose cycles have listed inputs with `p`, from a property that each such cycle hands on. -/
theorem run_induct_listed {p : Input → Prop} {P : Nat → State → Prop} {m : Nat} (hc : s.cfg.wellFormed = true)
    (hin : s.nextInputs m p) (hn : n ≤ m) (h0 : P 0 s)
    (hs : ∀ k t u, k < n → run k s = .next t → P k t → p (currentInput t) → step t = .next u → P (k + 1) u) :
    ∃ t, run n s = .next t ∧ P n t := by
  obtain ⟨t, -, hrun, ht⟩ := run_induct (P := fun k t => run k s = .next t ∧ P k t) (n := n) ⟨rfl, h0⟩
    fun k t hk ⟨hrun, hp⟩ => by
      obtain ⟨hcfg, -, -⟩ := run_own_fields k hrun
      obtain ⟨u, hu⟩ := step_total (hcfg ▸ hc)
      exact ⟨u, hu, by rw [run_succ hrun, hu], hs k t u hk hrun hp (nextInputs_run hin (by omega) hrun) hu⟩
  exact ⟨t, hrun, ht⟩

/-! ### The bit clock -/

/-- The quotient by `a` moves when the remainder stands at its last value. -/
theorem succ_div_eq_wrap {a : Nat} (ha : 0 < a) : (n + 1) / a = if n % a = a - 1 then n / a + 1 else n / a := by
  rw [Nat.succ_div]
  simp only [mod_eq_pred_iff ha]
  split <;> rfl

/-- An offset is its bit and the place in that bit. -/
theorem offset_iff {a q m : Nat} (hm : m < a) : n / a = q ∧ n % a = m ↔ n = q * a + m := by
  rw [Nat.div_mod_unique (Nat.zero_lt_of_lt hm), and_iff_left hm, Nat.mul_comm, Nat.add_comm, eq_comm]

/-! ### The periodic step within a tick -/

/-- What the periodic step (R196) reads and writes is as before. -/
structure SameLink (s t : State) : Prop where
  irEn : t.irEn = s.irEn
  txpReg : t.txpReg = s.txpReg
  txBusy : t.txBusy = s.txBusy
  txData : t.txData = s.txData
  txIdx : t.txIdx = s.txIdx
  txCnt : t.txCnt = s.txCnt
  rxHwEn : t.rxHwEn = s.rxHwEn
  rxBusy : t.rxBusy = s.rxBusy
  provTake : t.provTake = s.provTake

theorem SameLink.refl (s : State) : SameLink s s := ⟨rfl, rfl, rfl, rfl, rfl, rfl, rfl, rfl, rfl⟩

theorem SameLink.trans (h : SameLink s t) (h' : SameLink t u) : SameLink s u where
  irEn := h'.irEn.trans h.irEn
  txpReg := h'.txpReg.trans h.txpReg
  txBusy := h'.txBusy.trans h.txBusy
  txData := h'.txData.trans h.txData
  txIdx := h'.txIdx.trans h.txIdx
  txCnt := h'.txCnt.trans h.txCnt
  rxHwEn := h'.rxHwEn.trans h.rxHwEn
  rxBusy := h'.rxBusy.trans h.rxBusy
  provTake := h'.provTake.trans h.provTake

theorem SameLink.after_txPush (h : SameLink s t) (b : Byte) : SameLink (txPush b s) (txPush b t) := by
  unfold txPush
  rw [h.irEn, h.txBusy]
  split
  · exact { h with txBusy := rfl, txData := rfl, txIdx := rfl, txCnt := rfl }
  · exact h

theorem SameLink.after_irPeriodicStep (h : SameLink s t) (prov : Byte) :
    SameLink (irPeriodicStep prov s) (irPeriodicStep prov t) := by
  have hoff : SameLink (strobeProvTake (rxHwDisable s)) (strobeProvTake (rxHwDisable t)) :=
    { h with rxHwEn := rfl, rxBusy := rfl, provTake := rfl }
  unfold irPeriodicStep
  rw [h.irEn, h.txpReg]
  split
  · exact hoff.after_txPush prov
  · exact h

/-- The transmitter is busy after a periodic step that acts, so a second one of the same cycle pushes nothing (R135). -/
theorem irPeriodicStep_again (prov : Byte) (s : State) :
    irPeriodicStep prov (irPeriodicStep prov s) = irPeriodicStep prov s := by
  by_cases hon : s.irEn = true ∧ s.txpReg = true
  · obtain ⟨hir, hprov⟩ := hon
    have hbusy : (strobeProvTake (rxHwDisable (irPeriodicStep prov s))).txBusy = true := by
      simp [irPeriodicStep_on hir hprov, txPush_txBusy, hir]
    rw [irPeriodicStep_on (by simpa using hir) (by simpa using hprov), txPush_dropped (.inr hbusy),
      irPeriodicStep_on hir hprov, txPush]
    split <;> rfl
  · have hoff : irPeriodicStep prov s = s := if_neg hon
    rw [hoff, hoff]

/-- Only `H_IRTX` runs the periodic step (R132). -/
theorem SameLink.after_invoke (h : SameLink s t) (handler : HandlerId) (which : TickSlot) (prov : Byte) :
    SameLink (if handler = .hIrtx then irPeriodicStep prov s else s) (invoke handler which prov t) := by
  cases handler with
  | hNone => exact h
  | hPwm => exact h.trans { SameLink.refl t with }
  | hIrtx => exact h.after_irPeriodicStep prov
  | hExt => cases which <;> exact h.trans { SameLink.refl t with }

/-- A tick of the next step serves a slot that holds `H_IRTX`. -/
abbrev periodicDue (s : State) : Prop :=
  (fastTickDue s ∧ s.fastSlot = .hIrtx) ∨ (slowTickDue s ∧ s.slowSlot = .hIrtx)

/-- The periodic step served from both slots, or from either of them. -/
theorem irPeriodicStep_both_slots (p q : Prop) [Decidable p] [Decidable q] (prov : Byte) (s : State) :
    (if q then irPeriodicStep prov (if p then irPeriodicStep prov s else s)
      else if p then irPeriodicStep prov s else s) = if p ∨ q then irPeriodicStep prov s else s := by
  by_cases hp : p <;> by_cases hq : q <;> simp [hp, hq, irPeriodicStep_again]

/-- The tick chain runs the periodic step where a tick serves `H_IRTX`, at most once in effect, and moves the framer by
nothing else. -/
theorem tickAdvance_link (prov : Byte) (s : State) :
    SameLink (if periodicDue s then irPeriodicStep prov s else s) (tickAdvance prov s) := by
  by_cases hf : fastTickDue s
  · have hstart : SameLink s (strobeFast (setBaseCnt 0 (setPreCnt 0 s))) := { SameLink.refl s with }
    have hfast := hstart.after_invoke s.fastSlot .fast prov
    rw [tickAdvance_fast hf]
    by_cases hs : slowTickDue s
    · have hserved := hfast.trans (u := strobeSlow (countSlow (invoke _ _ _ _))) { SameLink.refl _ with }
      have hslow := hserved.after_invoke s.slowSlot .slow prov
      rw [irPeriodicStep_both_slots] at hslow
      rw [fastTick_slow (s := setBaseCnt 0 (setPreCnt 0 s)) hs.2, slowTick, countSlow_slowSlot, invoke_slowSlot]
      rwa [if_congr (or_congr (and_iff_right hf) (and_iff_right hs)) rfl rfl]
    · have hcounted := hfast.trans (u := countSlow (invoke _ _ _ _)) { SameLink.refl _ with }
      rw [fastTick_no_slow (s := setBaseCnt 0 (setPreCnt 0 s)) fun hw => hs ⟨hf, hw⟩]
      rwa [if_congr ((or_iff_left fun h => hs h.1).trans (and_iff_right hf)) rfl rfl]
  · obtain ⟨p, q, e⟩ := tickAdvance_no_tick hf prov
    rw [e, if_neg fun h => hf (h.elim And.left fun h => h.1.1)]
    exact { SameLink.refl s with }

/-! ### The states within a cycle (R100) -/

/-- `S1` of R100: the strobes cleared, then the transmitter advanced. -/
def transmitted (s : State) : State := txAdvance (clearStrobes s)

/-- `S2` of R100: then the receiver advanced. -/
def received (inp : Input) (s : State) : State := rxAdvance inp.rxLine (transmitted s)

/-- `S4` of R100: then the carrier and the tick chain. -/
theorem engines_eq (inp : Input) (s : State) :
    engines inp s = tickAdvance inp.provByte (carrierAdvance (received inp s)) := rfl

/-! What the first two sub-steps leave of the framer, and where the enable comes from. -/

@[simp] theorem transmitted_cfg (s : State) : (transmitted s).cfg = s.cfg := by simp [transmitted]
@[simp] theorem transmitted_irEn (s : State) : (transmitted s).irEn = s.irEn := by simp [transmitted]
@[simp] theorem transmitted_txpReg (s : State) : (transmitted s).txpReg = s.txpReg := by simp [transmitted]
@[simp] theorem transmitted_rxPrev (s : State) : (transmitted s).rxPrev = s.rxPrev := by simp [transmitted]
@[simp] theorem transmitted_rxBusy (s : State) : (transmitted s).rxBusy = s.rxBusy := by simp [transmitted]
@[simp] theorem transmitted_rxIdx (s : State) : (transmitted s).rxIdx = s.rxIdx := by simp [transmitted]
@[simp] theorem transmitted_rxCnt (s : State) : (transmitted s).rxCnt = s.rxCnt := by simp [transmitted]
@[simp] theorem transmitted_rxShift (s : State) : (transmitted s).rxShift = s.rxShift := by simp [transmitted]
@[simp] theorem transmitted_rxData (s : State) : (transmitted s).rxData = s.rxData := by simp [transmitted]

theorem transmitted_rxHwEn :
    (transmitted s).rxHwEn = true ↔ s.rxHwEn = true ∨ (frameEnds s ∧ s.rxIntent = true) := by
  rw [transmitted, txAdvance_rxHwEn]
  rfl

@[simp] theorem received_irEn (inp : Input) (s : State) : (received inp s).irEn = s.irEn := by simp [received]
@[simp] theorem received_txpReg (inp : Input) (s : State) : (received inp s).txpReg = s.txpReg := by simp [received]
@[simp] theorem received_txBusy (inp : Input) (s : State) : (received inp s).txBusy = (transmitted s).txBusy := by
  simp [received]
@[simp] theorem received_txData (inp : Input) (s : State) : (received inp s).txData = (transmitted s).txData := by
  simp [received]
@[simp] theorem received_txIdx (inp : Input) (s : State) : (received inp s).txIdx = (transmitted s).txIdx := by
  simp [received]
@[simp] theorem received_txCnt (inp : Input) (s : State) : (received inp s).txCnt = (transmitted s).txCnt := by
  simp [received]
@[simp] theorem received_rxHwEn (inp : Input) (s : State) : (received inp s).rxHwEn = (transmitted s).rxHwEn := by
  simp [received]
@[simp] theorem received_rxPrev (inp : Input) (s : State) : (received inp s).rxPrev = inp.rxLine := by simp [received]

/-- The tick chain is the last of the engines; the carrier before it writes nothing of the framer. -/
theorem engines_link (inp : Input) (s : State) : SameLink
    (if periodicDue s then irPeriodicStep inp.provByte (received inp s) else received inp s) (engines inp s) := by
  have hcarrier : SameLink (received inp s) (carrierAdvance (received inp s)) := by constructor <;> simp
  have hticks := tickAdvance_link inp.provByte (carrierAdvance (received inp s))
  have hdue : periodicDue (carrierAdvance (received inp s)) ↔ periodicDue s := by
    simp [periodicDue, received, transmitted, fastTickDue, slowTickDue]
  rw [if_congr hdue rfl rfl] at hticks
  split
  next h =>
    rw [if_pos h] at hticks
    exact (hcarrier.after_irPeriodicStep inp.provByte).trans hticks
  next h =>
    rw [if_neg h] at hticks
    exact hcarrier.trans hticks

/-- Without `prov_take` the periodic step did nothing. -/
theorem engines_link_of_quiet (h : (engines inp s).provTake = false) : SameLink (received inp s) (engines inp s) := by
  have hlink := engines_link inp s
  split at hlink
  next hdue =>
    have hoff : (received inp s).irEn = false ∨ (received inp s).txpReg = false := by
      by_contra hon
      obtain ⟨hir, hprov⟩ : s.irEn = true ∧ s.txpReg = true := by simpa using hon
      exact absurd (engines_provTake.mpr ⟨hir, hprov, hdue⟩) (Bool.eq_false_iff.mp h)
    rwa [irPeriodicStep_off hoff] at hlink
  next => exact hlink

/-- With `prov_take` the periodic step suspended receive and pushed the provider's byte (R196). -/
theorem engines_link_of_provTake (h : (engines inp s).provTake = true) :
    SameLink (txPush inp.provByte (strobeProvTake (rxHwDisable (received inp s)))) (engines inp s) := by
  obtain ⟨hir, hprov, hdue⟩ := engines_provTake.mp h
  have hlink := engines_link inp s
  rwa [if_pos hdue, irPeriodicStep_on (by simpa using hir) (by simpa using hprov)] at hlink

end Machine
end Sys2Proof
end

section
/-!
PROOFS. The statement of `spec/44_ir_framer.md` section 3 about the frame on the line (R192). A cycle does to the
transmitter what `TxAdvance` does, unless a push of the cycle finds it idle; a frame in flight drops every push, so the
bit clock counts its ten bits undisturbed.
-/

namespace Sys2Proof
namespace Machine

variable {s t u : State} {inp : Input} {i : Instr} {b : Byte} {c : Cfg} {k : Nat}

/-! ### The transmitter in a cycle -/

/-- The transmitter (R31) is as before. -/
structure SameTransmitter (s t : State) : Prop where
  txBusy : t.txBusy = s.txBusy
  txData : t.txData = s.txData
  txIdx : t.txIdx = s.txIdx
  txCnt : t.txCnt = s.txCnt

theorem SameTransmitter.trans (h : SameTransmitter s t) (h' : SameTransmitter t u) : SameTransmitter s u :=
  ⟨h'.txBusy.trans h.txBusy, h'.txData.trans h.txData, h'.txIdx.trans h.txIdx, h'.txCnt.trans h.txCnt⟩

theorem SameLink.sameTransmitter (h : SameLink s t) : SameTransmitter s t := ⟨h.txBusy, h.txData, h.txIdx, h.txCnt⟩

/-- `TxAdvance` (R190) reads the transmitter and the configuration alone. -/
theorem SameTransmitter.after_txAdvance (h : SameTransmitter s t) (hcfg : t.cfg = s.cfg) :
    SameTransmitter (txAdvance s) (txAdvance t) := by
  obtain ⟨hbusy, hdata, hidx, hcnt⟩ := h
  by_cases hb : s.txBusy = true
  · by_cases hc : s.txCnt = s.cfg.bitCycles - 1
    · by_cases h9 : s.txIdx = 9
      · rw [txAdvance_frame_end ⟨hb, h9, hc⟩,
          txAdvance_frame_end ⟨hbusy.trans hb, hidx.trans h9, by rw [hcnt, hcfg, hc]⟩]
        constructor <;> simp [hdata]
      · rw [txAdvance_next_bit hb hc h9,
          txAdvance_next_bit (hbusy.trans hb) (by rw [hcnt, hcfg, hc]) (by rwa [hidx])]
        constructor <;> simp [hbusy, hdata, hidx]
    · rw [txAdvance_within_bit hb hc, txAdvance_within_bit (hbusy.trans hb) (by rwa [hcnt, hcfg])]
      constructor <;> simp [hbusy, hdata, hidx, hcnt]
  · have hidle : s.txBusy = false := by simpa using hb
    rw [txAdvance_idle hidle, txAdvance_idle (hbusy.trans hidle)]
    exact ⟨hbusy, hdata, hidx, hcnt⟩

/-- No engine but `TxAdvance` moves the transmitter before the tick chain. -/
theorem received_sameTransmitter (inp : Input) (s : State) :
    SameTransmitter (txAdvance s) (received inp (consumeInput s)) := by
  have hclear : SameTransmitter s (clearStrobes (consumeInput s)) := ⟨rfl, rfl, rfl, rfl⟩
  have hreceive : SameTransmitter (transmitted (consumeInput s)) (received inp (consumeInput s)) := by
    constructor <;> simp
  exact (hclear.after_txAdvance rfl).trans hreceive

/-- After the engines the transmitter is where `TxAdvance` left it, unless the periodic step found it idle. -/
theorem engines_sameTransmitter (h : (txAdvance s).txBusy = true ∨ (engines inp (consumeInput s)).provTake = false) :
    SameTransmitter (txAdvance s) (engines inp (consumeInput s)) := by
  have hadvanced := received_sameTransmitter inp s
  by_cases hquiet : (engines inp (consumeInput s)).provTake = false
  · exact hadvanced.trans (engines_link_of_quiet hquiet).sameTransmitter
  · have hbusy : (received inp (consumeInput s)).txBusy = true :=
      hadvanced.txBusy.trans (h.resolve_right hquiet)
    have hlink := engines_link_of_provTake (by simpa using hquiet)
    rw [txPush_dropped (.inr (by simpa using hbusy))] at hlink
    exact hadvanced.trans ⟨hlink.txBusy, hlink.txData, hlink.txIdx, hlink.txCnt⟩

/-- `SET_CHANNEL` writes the mask or raises the fault flag (R143). -/
theorem exec_setChannel_frame {ch : Channel} {on : Bool} (h : exec (.setChannel ch on) s = .next t) :
    ∃ m f, t = { s with mask := m, cmdFault := f } := by
  simp only [exec, execSetChannel] at h
  split at h <;> cases h <;> exact ⟨_, _, rfl⟩

/-- `TRANSMIT` to an idle transmitter is the only command that writes it (R183, R188). -/
theorem exec_sameTransmitter (h : exec i s = .next t) (hq : s.txBusy = true ∨ ∀ b, i ≠ .transmit b) :
    SameTransmitter s t := by
  cases i with
  | transmit b =>
    have hbusy : s.txBusy = true := hq.resolve_right fun hne => hne b rfl
    rw [exec_transmit, txPush_dropped (.inr hbusy)] at h
    cases h
    exact ⟨rfl, rfl, rfl, rfl⟩
  | setChannel c on =>
    obtain ⟨_, _, rfl⟩ := exec_setChannel_frame h
    exact ⟨rfl, rfl, rfl, rfl⟩
  | _ => cases h; exact ⟨rfl, rfl, rfl, rfl⟩

theorem commandStep_sameTransmitter (h : commandStep inp s = .next t)
    (hq : s.txBusy = true ∨ ∀ b, ¬presents inp (.transmit b)) : SameTransmitter s t := by
  obtain ⟨-, rfl⟩ | ⟨i, hp, hi⟩ | ⟨-, -, rfl⟩ := commandStep_cases h
  · exact ⟨rfl, rfl, rfl, rfl⟩
  · exact exec_sameTransmitter hi (hq.imp_right fun hno b e => hno b (e ▸ hp))
  · exact ⟨rfl, rfl, rfl, rfl⟩

section Step
variable (h : step s = .next t) (hr : (currentInput s).rst = false)
include h hr

theorem step_provTake : t.provTake = (engines (currentInput s) (consumeInput s)).provTake :=
  (commandStep_strobes (step_without_reset h hr)).provTake

theorem step_txDone : t.txDone = true ↔ frameEnds s := by
  rw [(commandStep_strobes (step_without_reset h hr)).txDone]
  exact engines_txDone

/-- A cycle advances the transmitter and no more, unless a push of the cycle finds it idle (R188). -/
theorem step_sameTransmitter (hq : (txAdvance s).txBusy = true ∨
    (t.provTake = false ∧ ∀ b, ¬presents (currentInput s) (.transmit b))) : SameTransmitter (txAdvance s) t := by
  rw [step_provTake h hr] at hq
  have hengines := engines_sameTransmitter (inp := currentInput s) (hq.imp_right And.left)
  refine hengines.trans (commandStep_sameTransmitter (step_without_reset h hr) ?_)
  rw [hengines.txBusy]
  exact hq.imp_right And.right

end Step

/-! ### The frame on the line (R192) -/

/-- Byte `b` is being sent and stands `k` cycles after its push. -/
structure SendingAt (c : Cfg) (b : Byte) (k : Nat) (s : State) : Prop where
  cfg : s.cfg = c
  txBusy : s.txBusy = true
  txIdx : s.txIdx = k / c.bitCycles
  txCnt : s.txCnt = k % c.bitCycles
  txData : s.txData = b

/-- The frame ends after ten bit times. -/
theorem SendingAt.frameEnds_iff (h : SendingAt c b k s) (hc : c.wellFormed = true) :
    frameEnds s ↔ k + 1 = 10 * c.bitCycles := by
  obtain ⟨-, -, -, -, hB⟩ := cfg_bounds hc
  rw [frameEnds, and_iff_right h.txBusy, h.txIdx, h.txCnt, h.cfg, offset_iff (by omega)]
  omega

/-- Before its end the frame moves by one place of the bit clock, and every push is dropped. -/
theorem SendingAt.step (h : SendingAt c b k s) (hk : k + 1 < 10 * c.bitCycles) (hstep : step s = .next t)
    (hr : (currentInput s).rst = false) : SendingAt c b (k + 1) t := by
  have hc : c.wellFormed = true := h.cfg ▸ cfg_wellFormed_of_step hstep
  obtain ⟨-, -, -, -, hB⟩ := cfg_bounds hc
  have hgoes : ¬frameEnds s := by rw [h.frameEnds_iff hc]; omega
  have hbusy : (txAdvance s).txBusy = true := (txAdvance_not_frame_end hgoes).2.2.trans h.txBusy
  have hsame := step_sameTransmitter hstep hr (.inl hbusy)
  have hpos : (txAdvance s).txIdx = (k + 1) / c.bitCycles ∧ (txAdvance s).txCnt = (k + 1) % c.bitCycles := by
    rw [succ_div_eq_wrap (by omega), succ_mod_eq_wrap (by omega), ← h.txIdx, ← h.txCnt, ← h.cfg]
    by_cases hlast : s.txCnt = s.cfg.bitCycles - 1
    · rw [txAdvance_next_bit h.txBusy hlast fun h9 => hgoes ⟨h.txBusy, h9, hlast⟩]
      simp [hlast]
    · rw [txAdvance_within_bit h.txBusy hlast]
      simp [hlast]
  obtain ⟨hcfg, -, -⟩ := step_own_fields hstep
  exact ⟨hcfg.trans h.cfg, hsame.txBusy.trans hbusy, hsame.txIdx.trans hpos.1, hsame.txCnt.trans hpos.2,
    hsame.txData.trans ((txAdvance_txData s).trans h.txData)⟩

/-- The frame at every offset up to its end, with no `tx_done` before. -/
theorem SendingAt.run (h : SendingAt c b 0 s) (hc : c.wellFormed = true) {p : Input → Prop}
    (hin : s.nextInputs (10 * c.bitCycles) p) (hp : ∀ inp, p inp → inp.rst = false) (hk : k < 10 * c.bitCycles) :
    ∃ t, Machine.run k s = .next t ∧ SendingAt c b k t ∧ (0 < k → t.txDone = false) := by
  refine run_induct_listed (P := fun m t => SendingAt c b m t ∧ (0 < m → t.txDone = false)) (h.cfg ▸ hc) hin
    hk.le ⟨h, fun h0 => absurd h0 (Nat.lt_irrefl 0)⟩ fun m t u hm _ ⟨hsend, _⟩ hinp hu => ?_
  have hr := hp _ hinp
  refine ⟨hsend.step (by omega) hu hr, fun _ => ?_⟩
  rw [Bool.eq_false_iff, ne_eq, step_txDone hu hr, hsend.frameEnds_iff hc]
  omega

/-- The last cycle of the frame and the one that ends it. -/
theorem SendingAt.run_to_end (h : SendingAt c b 0 s) (hc : c.wellFormed = true) {p : Input → Prop}
    (hin : s.nextInputs (10 * c.bitCycles) p) (hp : ∀ inp, p inp → inp.rst = false) :
    ∃ u t, Machine.run (10 * c.bitCycles - 1) s = .next u ∧ Machine.step u = .next t ∧ frameEnds u ∧
      p (currentInput u) := by
  obtain ⟨-, -, -, -, hB⟩ := cfg_bounds hc
  obtain ⟨u, hu, hsend, -⟩ := h.run hc hin hp (k := 10 * c.bitCycles - 1) (by omega)
  obtain ⟨t, ht⟩ := step_total (hsend.cfg ▸ hc)
  exact ⟨u, t, hu, ht, (hsend.frameEnds_iff hc).mpr (by omega), nextInputs_run hin (by omega) hu⟩

/-- R55 on a transmitter that is not busy. -/
theorem txLine_idle (h : s.txBusy = false) : txLine s = true := if_pos h

/-- The bits of a frame: start bit, data bits from the least significant on, stop bit (R192). -/
theorem getLsbD_frameBits (b : Byte) (q : Nat) : (frameBits b).getLsbD q =
    if q = 0 then false else if q ≤ 8 then b.getLsbD (q - 1) else decide (q = 9) := by
  simp only [frameBits, BitVec.getLsbD_append]
  by_cases h0 : q = 0
  · simp [h0]
  · by_cases h8 : q ≤ 8
    · have hdata : q < 9 := by omega
      simp [h0, h8, hdata]
    · have hstop : ¬q < 9 := by omega
      have hlast : q - 9 = 0 ↔ q = 9 := by omega
      simp [h0, h8, hstop, hlast]

/-- The line shows the bit of the frame that the bit clock stands in. -/
theorem SendingAt.txLine_eq (h : SendingAt c b k s) (hk : k < 10 * c.bitCycles) :
    txLine s = (frameBits b).getLsbD (k / c.bitCycles) := by
  have hidx : k / c.bitCycles ≤ 9 := Nat.le_of_lt_succ (Nat.div_lt_of_lt_mul (by omega))
  rw [txLine, if_neg (by simp [h.txBusy]), h.txIdx, h.txData, getLsbD_frameBits]
  split_ifs
  · rfl
  · rfl
  · simp; omega

/-- Settles O50: the bit clock of the frame, cycle by cycle up to its end; in the cycle that ends it only a push makes
the transmitter busy again. -/
theorem frameOccupiesTenBitTimes : Obligations.FrameOccupiesTenBitTimes := by
  intro s b hc hbusy hidx hcnt hdata hin
  have hstart : SendingAt s.cfg b 0 s := ⟨rfl, hbusy, by simpa using hidx, by simpa using hcnt, hdata⟩
  constructor
  · intro k hk
    obtain ⟨t, hrun, hsend, hdone⟩ := hstart.run hc hin (fun _ => id) hk
    exact ⟨t, hrun, hsend.txBusy, hsend.txIdx, hsend.txCnt, hsend.txData, hsend.txLine_eq hk, hdone⟩
  · obtain ⟨u, t, hrun, hstep, hend, hr⟩ := hstart.run_to_end hc hin fun _ => id
    refine ⟨u, t, hrun, hstep, (step_txDone hstep hr).mpr hend, fun hno hquiet => ?_⟩
    have hidle : t.txBusy = false :=
      (step_sameTransmitter hstep hr (.inr ⟨hquiet, hno⟩)).txBusy.trans (txAdvance_frame_end_txBusy hend)
    exact ⟨hidle, txLine_idle hidle⟩

end Machine
end Sys2Proof
end

section
/-!
PROOFS. The statements of `spec/44_ir_framer.md` sections 4 and 5 about reception: where the enable comes back (R262), the
start edge (R199), the half-duplex window (R197), sampling and completion (R201 to R204, R207). One rule gives the enable
after a cycle, one the busy flag, and the receiver's sub-step has a case for an edge, for a count and for the delivery.
-/

namespace Sys2Proof
namespace Machine

variable {s t : State} {inp : Input} {i j : Instr} {b : Byte} {c : Cfg} {n k : Nat}

/-! ### The receive enable in a cycle -/

theorem presents_iff (h : presents inp i) : presents inp j ↔ i = j := by
  rw [presents, h.2, and_iff_right h.1, Decoded.command.injEq]

/-- A reserved word presents no command. -/
theorem not_presents_of_reserved (h : isReserved inp.cmd = true) : ¬presents inp j := by
  rintro ⟨-, hd⟩
  simp [isReserved, hd] at h

/-- `RxHwDisable` (R187) did not run in the cycle with inputs `inp` that led to `t`: neither the periodic step nor a
command called it. -/
structure ReceiverKept (inp : Input) (t : State) : Prop where
  quiet : t.provTake = false
  not_rxDisable : ¬presents inp .rxDisable
  not_rxSuspend : ¬presents inp .rxSuspend

theorem receiverKept_iff : ReceiverKept inp t ↔
    t.provTake = false ∧ ¬presents inp .rxDisable ∧ ¬presents inp .rxSuspend :=
  ⟨fun h => ⟨h.quiet, h.not_rxDisable, h.not_rxSuspend⟩, fun ⟨hquiet, hdis, hsus⟩ => ⟨hquiet, hdis, hsus⟩⟩

/-- The commands that write `rx_hw_en` (R176 to R178). -/
theorem exec_rxHwEn (h : exec i s = .next t) :
    t.rxHwEn = true ↔ i = .rxEnable ∨ (s.rxHwEn = true ∧ i ≠ .rxDisable ∧ i ≠ .rxSuspend) := by
  cases i with
  | setChannel c on =>
    obtain ⟨_, _, rfl⟩ := exec_setChannel_frame h
    simp
  | transmit b => cases h; simp
  | _ => cases h; simp

theorem commandStep_rxHwEn (h : commandStep inp s = .next t) : t.rxHwEn = true ↔
    presents inp .rxEnable ∨ (s.rxHwEn = true ∧ ¬presents inp .rxDisable ∧ ¬presents inp .rxSuspend) := by
  obtain ⟨hv, rfl⟩ | ⟨i, hp, hi⟩ | ⟨-, hres, rfl⟩ := commandStep_cases h
  · simp [hv]
  · simp only [presents_iff hp, exec_rxHwEn hi, ne_eq]
  · simp [not_presents_of_reserved hres]

/-- Only the transmit-ready handler and the periodic step write the enable among the engines. -/
theorem engines_rxHwEn : (engines inp s).rxHwEn = true ↔
    (s.rxHwEn = true ∨ (frameEnds s ∧ s.rxIntent = true)) ∧ (engines inp s).provTake = false := by
  cases hquiet : (engines inp s).provTake
  · rw [(engines_link_of_quiet hquiet).rxHwEn, received_rxHwEn, transmitted_rxHwEn, and_iff_left rfl]
  · simp [(engines_link_of_provTake hquiet).rxHwEn]

/-- R262: the enable after a cycle without reset. -/
theorem step_rxHwEn (h : step s = .next t) (hr : (currentInput s).rst = false) : t.rxHwEn = true ↔
    presents (currentInput s) .rxEnable ∨
      ((s.rxHwEn = true ∨ (frameEnds s ∧ s.rxIntent = true)) ∧ ReceiverKept (currentInput s) t) := by
  rw [commandStep_rxHwEn (step_without_reset h hr), engines_rxHwEn, ← step_provTake h hr, and_assoc,
    receiverKept_iff]
  rfl

/-- Settles O55: a reset leaves receive off, and without one the enable is the command's or the frame end's. -/
theorem onlyFrameEndOrRxEnableRestoresReceive : Obligations.OnlyFrameEndOrRxEnableRestoresReceive := by
  intro s t hstep hoff hon
  cases hr : (currentInput s).rst
  · obtain hcmd | ⟨hen | ⟨hend, hintent⟩, -⟩ := (step_rxHwEn hstep hr).mp hon
    · exact .inr hcmd
    · simp [hoff] at hen
    · exact .inl ⟨(step_txDone hstep hr).mpr hend, hintent⟩
  · simp [step_with_reset hstep hr] at hon

/-- Only `RX_ENABLE` and `RX_DISABLE` write the intent (R176, R177). -/
theorem exec_rxIntent (h : exec i s = .next t) (hen : i ≠ .rxEnable) (hdis : i ≠ .rxDisable) :
    t.rxIntent = s.rxIntent := by
  cases i with
  | setChannel c on =>
    obtain ⟨_, _, rfl⟩ := exec_setChannel_frame h
    rfl
  | transmit b => cases h; simp
  | rxEnable => exact absurd rfl hen
  | rxDisable => exact absurd rfl hdis
  | _ => cases h; rfl

theorem commandStep_rxIntent (h : commandStep inp s = .next t) (hen : ¬presents inp .rxEnable)
    (hdis : ¬presents inp .rxDisable) : t.rxIntent = s.rxIntent := by
  obtain ⟨-, rfl⟩ | ⟨i, hp, hi⟩ | ⟨-, -, rfl⟩ := commandStep_cases h
  · rfl
  · exact exec_rxIntent hi (fun e => hen (e ▸ hp)) (fun e => hdis (e ▸ hp))
  · rfl

theorem step_rxIntent (h : step s = .next t) (hr : (currentInput s).rst = false)
    (hen : ¬presents (currentInput s) .rxEnable) (hdis : ¬presents (currentInput s) .rxDisable) :
    t.rxIntent = s.rxIntent :=
  (commandStep_rxIntent (step_without_reset h hr) hen hdis).trans (by simp [engines])

/-! ### The receiver in a cycle -/

/-- The receiver's line memory, position and bytes (R32) are as before. -/
structure SameReception (s t : State) : Prop where
  rxPrev : t.rxPrev = s.rxPrev
  rxIdx : t.rxIdx = s.rxIdx
  rxCnt : t.rxCnt = s.rxCnt
  rxShift : t.rxShift = s.rxShift
  rxData : t.rxData = s.rxData

/-- No command writes them (R69). -/
theorem exec_sameReception (h : exec i s = .next t) : SameReception s t := by
  cases i with
  | setChannel c on =>
    obtain ⟨_, _, rfl⟩ := exec_setChannel_frame h
    exact ⟨rfl, rfl, rfl, rfl, rfl⟩
  | transmit b => cases h; constructor <;> simp
  | _ => cases h; constructor <;> rfl

theorem commandStep_sameReception (h : commandStep inp s = .next t) : SameReception s t := by
  obtain ⟨-, rfl⟩ | ⟨i, -, hi⟩ | ⟨-, -, rfl⟩ := commandStep_cases h
  · exact ⟨rfl, rfl, rfl, rfl, rfl⟩
  · exact exec_sameReception hi
  · exact ⟨rfl, rfl, rfl, rfl, rfl⟩

/-- After the receiver's sub-step nothing of a cycle writes them. -/
theorem step_sameReception (h : step s = .next t) (hr : (currentInput s).rst = false) :
    SameReception (received (currentInput s) (consumeInput s)) t := by
  obtain ⟨hprev, hidx, hcnt, hshift, hdata⟩ := commandStep_sameReception (step_without_reset h hr)
  constructor <;> simp [*, engines_eq]

theorem exec_rxBusy (h : exec i s = .next t) :
    t.rxBusy = true ↔ s.rxBusy = true ∧ i ≠ .rxDisable ∧ i ≠ .rxSuspend := by
  cases i with
  | setChannel c on =>
    obtain ⟨_, _, rfl⟩ := exec_setChannel_frame h
    simp
  | transmit b => cases h; simp
  | _ => cases h; simp

theorem commandStep_rxBusy (h : commandStep inp s = .next t) : t.rxBusy = true ↔
    s.rxBusy = true ∧ ¬presents inp .rxDisable ∧ ¬presents inp .rxSuspend := by
  obtain ⟨hv, rfl⟩ | ⟨i, hp, hi⟩ | ⟨-, hres, rfl⟩ := commandStep_cases h
  · simp [hv]
  · simp only [presents_iff hp, exec_rxBusy hi, ne_eq]
  · simp [not_presents_of_reserved hres]

/-- A frame that the receiver's sub-step leaves in reception is abandoned by `RxHwDisable` alone. -/
theorem step_rxBusy (h : step s = .next t) (hr : (currentInput s).rst = false) : t.rxBusy = true ↔
    (received (currentInput s) (consumeInput s)).rxBusy = true ∧ ReceiverKept (currentInput s) t := by
  have hengines : (engines (currentInput s) (consumeInput s)).rxBusy = true ↔
      (received (currentInput s) (consumeInput s)).rxBusy = true ∧ t.provTake = false := by
    rw [step_provTake h hr]
    cases hquiet : (engines (currentInput s) (consumeInput s)).provTake
    · rw [(engines_link_of_quiet hquiet).rxBusy, and_iff_left rfl]
    · simp [(engines_link_of_provTake hquiet).rxBusy]
  rw [commandStep_rxBusy (step_without_reset h hr), hengines, and_assoc, receiverKept_iff]

/-- The enables as the receiver's sub-step sees them (R103 item 4). -/
theorem transmitted_receiverOn : (transmitted s).irEn = true ∧ (transmitted s).rxHwEn = true ↔ receiverOn s := by
  rw [transmitted_irEn, transmitted_rxHwEn]

theorem received_off (h : ¬receiverOn s) : received inp s = setRxPrev inp.rxLine (transmitted s) :=
  congrArg (setRxPrev _) (rxEngine_off (transmitted_receiverOn.not.mpr h))

theorem received_idle (h : receiverOn s) (hb : s.rxBusy = false) :
    received inp s = setRxPrev inp.rxLine (rxStart inp.rxLine (transmitted s)) := by
  obtain ⟨hir, hen⟩ := transmitted_receiverOn.mpr h
  rw [received, rxAdvance, rxEngine_idle hir hen (by simp [hb])]

theorem received_busy (h : receiverOn s) (hb : s.rxBusy = true) :
    received inp s = setRxPrev inp.rxLine (rxSample inp.rxLine (rxCount (transmitted s))) := by
  obtain ⟨hir, hen⟩ := transmitted_receiverOn.mpr h
  rw [received, rxAdvance, rxEngine_busy hir hen (by simp [hb])]

/-- R199: an idle receiver goes busy exactly at a falling edge that it is enabled to see. -/
theorem received_rxBusy_of_idle (hb : s.rxBusy = false) :
    (received inp s).rxBusy = true ↔ receiverOn s ∧ s.rxPrev = true ∧ inp.rxLine = false := by
  by_cases hon : receiverOn s
  · rw [received_idle hon hb, and_iff_right hon, rxStart, setRxPrev_rxBusy]
    split
    next hedge => simpa using hedge
    next hedge => simpa [hb] using hedge
  · simp only [received_off hon, hon, false_and, iff_false]
    simp [hb]

/-- A start edge puts the receiver at the first cycle of the start bit. -/
theorem received_pos_of_edge (hb : s.rxBusy = false) (h : (received inp s).rxBusy = true) :
    (received inp s).rxIdx = 0 ∧ (received inp s).rxCnt = 0 := by
  obtain ⟨hon, hprev, hline⟩ := (received_rxBusy_of_idle hb).mp h
  have hprev' : (transmitted s).rxPrev = true := by simpa using hprev
  rw [received_idle hon hb, rxStart, if_pos ⟨hprev', hline⟩]
  exact ⟨rfl, rfl⟩

/-- The receiver's bit clock (R198). -/
theorem rxCount_rxIdx (s : State) :
    (rxCount s).rxIdx = if s.rxCnt = s.cfg.bitCycles - 1 then s.rxIdx + 1 else s.rxIdx := by
  unfold rxCount
  split <;> rfl

theorem rxCount_rxCnt (s : State) :
    (rxCount s).rxCnt = if s.rxCnt = s.cfg.bitCycles - 1 then 0 else s.rxCnt + 1 := by
  unfold rxCount
  split <;> rfl

/-- Before the middle of the stop bit a sample writes nothing but `rx_shift`. -/
theorem rxSample_within (h : ¬(s.rxCnt = sampleMid s.cfg ∧ s.rxIdx = 9)) (line : Bool) :
    (rxSample line s).rxBusy = s.rxBusy ∧ (rxSample line s).rxIdx = s.rxIdx ∧ (rxSample line s).rxCnt = s.rxCnt ∧
    (rxSample line s).rxData = s.rxData := by
  unfold rxSample
  split_ifs with hmid h9
  · exact absurd ⟨hmid, h9⟩ h
  · simp
  · simp

/-- R201: the middle of data bit `n` stores the line there, and nothing else touches that bit. -/
theorem rxSample_getLsbD (hn : n < 8) (line : Bool) (s : State) : (rxSample line s).rxShift.getLsbD n =
    if s.rxCnt = sampleMid s.cfg ∧ s.rxIdx = n + 1 then line else s.rxShift.getLsbD n := by
  by_cases hmid : s.rxCnt = sampleMid s.cfg
  · by_cases h9 : s.rxIdx = 9
    · rw [rxSample, if_pos hmid, if_pos h9, rxComplete_rxShift, if_neg (by omega)]
    · rw [rxSample, if_pos hmid, if_neg h9, rxStore]
      split
      next hidx =>
        have hbit : n = s.rxIdx - 1 ∧ s.rxIdx - 1 < 8 ↔ s.rxCnt = sampleMid s.cfg ∧ s.rxIdx = n + 1 := by omega
        rw [storeRxBit_rxShift, getLsbD_writeBit, if_congr hbit rfl rfl]
      next hidx => rw [if_neg (by omega)]
  · rw [rxSample, if_neg hmid, if_neg fun h => hmid h.1]

theorem rxCount_transmitted_cfg (s : State) : (rxCount (transmitted s)).cfg = s.cfg := by simp

/-- The middle of the stop bit, from the state before the cycle. -/
theorem rxCount_transmitted_stopBitMid (hc : s.cfg.wellFormed = true) :
    (rxCount (transmitted s)).rxCnt = sampleMid (rxCount (transmitted s)).cfg ∧ (rxCount (transmitted s)).rxIdx = 9 ↔
      stopBitMidNext s := by
  have hmid := rxCount_stopBitMid (s := transmitted s) (by simpa using hc)
  simpa [stopBitMidNext] using hmid

/-- R202: in the middle of the stop bit the byte is drained and the receiver free. -/
theorem received_of_byteCompletes (hc : s.cfg.wellFormed = true) (h : byteCompletes s) :
    (received inp s).rxBusy = false ∧ (received inp s).rxData = s.rxShift := by
  obtain ⟨hon, hb, hmid⟩ := h
  rw [received_busy hon hb, rxSample_stopBitMid ((rxCount_transmitted_stopBitMid hc).mpr hmid)]
  simp

/-- `rx_data` changes in no other cycle (R203). -/
theorem received_rxData_of_not_byteCompletes (hc : s.cfg.wellFormed = true) (h : ¬byteCompletes s) :
    (received inp s).rxData = s.rxData := by
  by_cases hon : receiverOn s
  · cases hb : s.rxBusy
    · rw [received_idle hon hb]
      simp
    · have hmid := (rxCount_transmitted_stopBitMid hc).not.mpr fun hmid => h ⟨hon, hb, hmid⟩
      obtain ⟨-, -, -, hdata⟩ := rxSample_within hmid inp.rxLine
      rw [received_busy hon hb, setRxPrev_rxData, hdata]
      simp
  · rw [received_off hon]
    simp

section Step
variable (h : step s = .next t) (hr : (currentInput s).rst = false)
include h hr

theorem step_irqRx : t.irqRx = true ↔ byteCompletes s ∧ s.rxhReg = true := by
  rw [(commandStep_strobes (step_without_reset h hr)).irqRx]
  exact engines_irqRx (s := consumeInput s) (cfg_wellFormed_of_step (s := s) h)

theorem step_of_byteCompletes (hend : byteCompletes s) : t.rxBusy = false ∧ t.rxData = s.rxShift := by
  obtain ⟨hbusy, hdata⟩ := received_of_byteCompletes (s := consumeInput s) (inp := currentInput s)
    (cfg_wellFormed_of_step (s := s) h) hend
  refine ⟨?_, (step_sameReception h hr).rxData.trans hdata⟩
  rw [Bool.eq_false_iff, ne_eq, step_rxBusy h hr, hbusy]
  simp

theorem step_rxData_of_not_byteCompletes (hno : ¬byteCompletes s) : t.rxData = s.rxData :=
  (step_sameReception h hr).rxData.trans
    (received_rxData_of_not_byteCompletes (s := consumeInput s) (cfg_wellFormed_of_step (s := s) h) hno)

theorem step_rxPrev : t.rxPrev = (currentInput s).rxLine :=
  (step_sameReception h hr).rxPrev.trans (received_rxPrev _ _)

end Step

/-- Settles O54: the receiver's sub-step takes the edge, and what follows it can only turn the receiver off. -/
theorem frameStartsOnlyAtAFallingEdge : Obligations.FrameStartsOnlyAtAFallingEdge := by
  refine fun s t hr hstep => ⟨step_rxPrev hstep hr, fun hidle hbusy => ?started,
    fun hidle hon hprev hline hquiet hdis hsus => ?starts⟩
  case started =>
    obtain ⟨hstart, -⟩ := (step_rxBusy hstep hr).mp hbusy
    obtain ⟨hon, hprev, hline⟩ := (received_rxBusy_of_idle (s := consumeInput s) hidle).mp hstart
    obtain ⟨hidx, hcnt⟩ := received_pos_of_edge (s := consumeInput s) hidle hstart
    have hsame := step_sameReception hstep hr
    exact ⟨hon, hprev, hline, hsame.rxIdx.trans hidx, hsame.rxCnt.trans hcnt⟩
  case starts =>
    have hstart := (received_rxBusy_of_idle (s := consumeInput s) hidle).mpr ⟨hon, hprev, hline⟩
    exact (step_rxBusy hstep hr).mpr ⟨hstart, hquiet, hdis, hsus⟩

/-! ### The half-duplex window (R197) -/

/-- A receiver that is off before the end of a frame stays off, keeps its intent and delivers nothing in a cycle
without `RX_ENABLE` and `RX_DISABLE`. -/
theorem step_deaf (hstep : step s = .next t) (hr : (currentInput s).rst = false) (hoff : s.rxHwEn = false)
    (hgoes : ¬frameEnds s) (hen : ¬presents (currentInput s) .rxEnable) :
    t.rxHwEn = false ∧ t.rxData = s.rxData ∧ t.irqRx = false := by
  have hdeaf : ¬byteCompletes s := by
    rintro ⟨⟨-, hon | ⟨hend, -⟩⟩, -⟩
    · simp [hoff] at hon
    · exact hgoes hend
  refine ⟨?_, step_rxData_of_not_byteCompletes hstep hr hdeaf, ?_⟩
  · rw [Bool.eq_false_iff, ne_eq, step_rxHwEn hstep hr]
    rintro (hcmd | ⟨hon | ⟨hend, -⟩, -⟩)
    · exact hen hcmd
    · simp [hoff] at hon
    · exact hgoes hend
  · rw [Bool.eq_false_iff, ne_eq, step_irqRx hstep hr]
    exact fun h => hdeaf h.1

/-- Settles O51: off along the frame, on again by the transmit-ready handler in the cycle that ends it. -/
theorem receiverIsDeafDuringOwnFrameOnly : Obligations.ReceiverIsDeafDuringOwnFrameOnly := by
  intro s hc hbusy hidx hcnt hoff hintent hin
  have hstart : SendingAt s.cfg s.txData 0 s := ⟨rfl, hbusy, by simpa using hidx, by simpa using hcnt, rfl⟩
  have hdeaf (k : Nat) (hk : k < 10 * s.cfg.bitCycles) : ∃ t, run k s = .next t ∧ t.rxHwEn = false ∧
      t.rxIntent = true ∧ t.rxData = s.rxData ∧ (0 < k → t.irqRx = false) := by
    refine run_induct_listed (P := fun m t => t.rxHwEn = false ∧ t.rxIntent = true ∧ t.rxData = s.rxData ∧
      (0 < m → t.irqRx = false)) hc hin hk.le ⟨hoff, hintent, rfl, fun h0 => absurd h0 (Nat.lt_irrefl 0)⟩ ?_
    intro m t u hm hrun ⟨hoff, hintent, hdata, _⟩ ⟨hr, hen, hdis⟩ hstep
    obtain ⟨t', hrun', hsend, -⟩ := hstart.run hc hin (fun _ h => h.1) (hm.trans hk)
    obtain rfl : t' = t := Host.Outcome.next.inj (hrun'.symm.trans hrun)
    have hgoes : ¬frameEnds t' := by rw [hsend.frameEnds_iff hc]; omega
    obtain ⟨hoff', hdata', hirq'⟩ := step_deaf hstep hr hoff hgoes hen
    exact ⟨hoff', (step_rxIntent hstep hr hen hdis).trans hintent, hdata'.trans hdata, fun _ => hirq'⟩
  refine ⟨hdeaf, ?_⟩
  obtain ⟨u, t, hrun, hstep, hend, hr, hen, hdis⟩ := hstart.run_to_end hc hin fun _ h => h.1
  refine ⟨u, t, hrun, hstep, (step_txDone hstep hr).mpr hend, fun hsus hquiet => ?_⟩
  have hlast : 10 * s.cfg.bitCycles - 1 < 10 * s.cfg.bitCycles := by have := cfg_bounds hc; omega
  obtain ⟨u', hrun', -, hintent', -⟩ := hdeaf _ hlast
  obtain rfl : u' = u := Host.Outcome.next.inj (hrun'.symm.trans hrun)
  exact (step_rxHwEn hstep hr).mpr (.inr ⟨.inr ⟨hend, hintent'⟩, hquiet, hdis, hsus⟩)

/-! ### A frame received (R201 to R207) -/

/-- A frame of byte `b` is being received and stands `k` cycles after its start edge: the data bits whose middle has
been passed are stored. -/
structure ReceivingAt (c : Cfg) (b : Byte) (k : Nat) (s : State) : Prop where
  cfg : s.cfg = c
  irEn : s.irEn = true
  rxHwEn : s.rxHwEn = true
  rxBusy : s.rxBusy = true
  rxIdx : s.rxIdx = k / c.bitCycles
  rxCnt : s.rxCnt = k % c.bitCycles
  stored : ∀ n, n < 8 → (n + 1) * c.bitCycles + sampleMid c ≤ k → s.rxShift.getLsbD n = b.getLsbD n

theorem ReceivingAt.receiverOn (h : ReceivingAt c b k s) : receiverOn s := ⟨h.irEn, .inl h.rxHwEn⟩

/-- The receiver's bit clock, after the sub-step of the transmitter and its own count. -/
theorem ReceivingAt.counted (h : ReceivingAt c b k s) (hc : c.wellFormed = true) :
    (rxCount (transmitted (consumeInput s))).rxIdx = (k + 1) / c.bitCycles ∧
    (rxCount (transmitted (consumeInput s))).rxCnt = (k + 1) % c.bitCycles := by
  obtain ⟨-, -, -, -, hB⟩ := cfg_bounds hc
  rw [rxCount_rxIdx, rxCount_rxCnt, succ_div_eq_wrap (by omega), succ_mod_eq_wrap (by omega), ← h.rxIdx, ← h.rxCnt,
    ← h.cfg]
  simp

/-- The frame is complete at the middle of bit 9. -/
theorem ReceivingAt.stopBitMidNext_iff (h : ReceivingAt c b k s) (hc : c.wellFormed = true) :
    stopBitMidNext s ↔ k + 1 = 9 * c.bitCycles + sampleMid c := by
  obtain ⟨-, -, hmid⟩ := derived_bounds hc
  obtain ⟨hidx, hcnt⟩ := h.counted hc
  rw [← offset_iff hmid, ← hidx, ← hcnt, and_comm, ← h.cfg]
  have hlast := rxCount_transmitted_stopBitMid (s := consumeInput s) (h.cfg ▸ hc)
  rw [rxCount_transmitted_cfg] at hlast
  exact hlast.symm

/-- The line at the middle of each data bit is that bit of `b`, as far as the cycle `k` after the start edge sees it. -/
def SampleOf (c : Cfg) (b : Byte) (k : Nat) (line : Bool) : Prop :=
  ∀ n, n < 8 → k = (n + 1) * c.bitCycles + sampleMid c → line = b.getLsbD n

/-- Before its completion the frame moves by one place of the bit clock and stores what the line shows in the middle
of a data bit. -/
theorem ReceivingAt.step (h : ReceivingAt c b k s) (hk : k + 1 < 9 * c.bitCycles + sampleMid c)
    (hstep : step s = .next t) (hr : (currentInput s).rst = false) (hkept : ReceiverKept (currentInput s) t)
    (hline : SampleOf c b (k + 1) (currentInput s).rxLine) : ReceivingAt c b (k + 1) t := by
  have hc : c.wellFormed = true := h.cfg ▸ cfg_wellFormed_of_step hstep
  obtain ⟨-, -, hmid⟩ := derived_bounds hc
  have hreceived := received_busy (s := consumeInput s) (inp := currentInput s) h.receiverOn h.rxBusy
  have hgoes : ¬stopBitMidNext s := by rw [h.stopBitMidNext_iff hc]; omega
  have hlast := (rxCount_transmitted_stopBitMid (s := consumeInput s) (h.cfg ▸ hc)).not.mpr hgoes
  obtain ⟨hbusy, hidx, hcnt, -⟩ := rxSample_within hlast (currentInput s).rxLine
  obtain ⟨hidx', hcnt'⟩ := h.counted hc
  have hsame := step_sameReception hstep hr
  obtain ⟨hcfg, -, -⟩ := step_own_fields hstep
  obtain ⟨-, -, hir, -⟩ := step_keeps_enables hstep hr
  refine ⟨hcfg.trans h.cfg, hir h.irEn, (step_rxHwEn hstep hr).mpr (.inr ⟨.inl h.rxHwEn, hkept⟩),
    (step_rxBusy hstep hr).mpr ⟨?busy, hkept⟩, ?idx, ?cnt, fun n hn hpassed => ?stored⟩
  case busy =>
    rw [hreceived, setRxPrev_rxBusy, hbusy]
    simpa using h.rxBusy
  case idx => rw [hsame.rxIdx, hreceived, setRxPrev_rxIdx, hidx, hidx']
  case cnt => rw [hsame.rxCnt, hreceived, setRxPrev_rxCnt, hcnt, hcnt']
  case stored =>
    have hnow : (rxCount (transmitted (consumeInput s))).rxCnt = sampleMid c ∧
        (rxCount (transmitted (consumeInput s))).rxIdx = n + 1 ↔ k + 1 = (n + 1) * c.bitCycles + sampleMid c := by
      rw [hidx', hcnt', and_comm, offset_iff hmid]
    rw [hsame.rxShift, hreceived, setRxPrev_rxShift, rxSample_getLsbD hn, rxCount_transmitted_cfg, consumeInput_cfg,
      h.cfg, if_congr hnow rfl rfl]
    split
    next hk => exact hline n hn hk
    next hk =>
      have hbefore := h.stored n hn (by omega)
      simpa using hbefore

/-- A start edge begins the frame at offset 0. -/
theorem receivingAt_zero (hcfg : s.cfg = c) (hon : receiverOn s) (hidle : s.rxBusy = false) (hprev : s.rxPrev = true)
    (hstep : step s = .next t) (hr : (currentInput s).rst = false) (hkept : ReceiverKept (currentInput s) t)
    (hline : (currentInput s).rxLine = false) : ReceivingAt c b 0 t := by
  have hc : c.wellFormed = true := hcfg ▸ cfg_wellFormed_of_step hstep
  obtain ⟨-, hmid, -⟩ := derived_bounds hc
  obtain ⟨-, hstart, hedge⟩ := frameStartsOnlyAtAFallingEdge s t hr hstep
  have hbusy := hedge hidle hon hprev hline hkept.quiet hkept.not_rxDisable hkept.not_rxSuspend
  obtain ⟨-, -, -, hidx, hcnt⟩ := hstart hidle hbusy
  obtain ⟨hcfg', -, -⟩ := step_own_fields hstep
  obtain ⟨-, -, hir, -⟩ := step_keeps_enables hstep hr
  exact ⟨hcfg'.trans hcfg, hir hon.1, (step_rxHwEn hstep hr).mpr (.inr ⟨hon.2, hkept⟩), hbusy, by simpa using hidx,
    by simpa using hcnt, fun n _ hpassed => by omega⟩

/-- At the middle of the stop bit the eight stored bits are the byte, and it is delivered. -/
theorem ReceivingAt.delivers (h : ReceivingAt c b k s) (hk : k + 1 = 9 * c.bitCycles + sampleMid c)
    (hstep : Machine.step s = .next t) (hr : (currentInput s).rst = false) :
    t.rxBusy = false ∧ t.rxData = b ∧ (t.irqRx = true ↔ s.rxhReg = true) := by
  have hc : c.wellFormed = true := h.cfg ▸ cfg_wellFormed_of_step hstep
  obtain ⟨-, -, -, -, hB⟩ := cfg_bounds hc
  have hend : byteCompletes s := ⟨h.receiverOn, h.rxBusy, (h.stopBitMidNext_iff hc).mpr hk⟩
  have hbyte : s.rxShift = b := by
    apply BitVec.eq_of_getLsbD_eq
    intro n hn
    have hbit : (n + 1) * c.bitCycles ≤ 8 * c.bitCycles := Nat.mul_le_mul_right _ hn
    exact h.stored n hn (by omega)
  obtain ⟨hbusy, hdata⟩ := step_of_byteCompletes hstep hr hend
  exact ⟨hbusy, hdata.trans hbyte, (step_irqRx hstep hr).trans (and_iff_right hend)⟩

/-- Settles O52: the start edge, the bit clock cycle by cycle, and the delivery. -/
theorem frameIsAssembledFromItsEightSamples : Obligations.FrameIsAssembledFromItsEightSamples := by
  intro s b hc hon hidle hprev hin hquiet hedge hsamples
  obtain ⟨-, hmid, -⟩ := derived_bounds hc
  obtain ⟨-, -, -, -, hB⟩ := cfg_bounds hc
  have hkept (k : Nat) (t u : State) (hk : k < 9 * s.cfg.bitCycles + sampleMid s.cfg + 1) (hrun : run k s = .next t)
      (hstep : step t = .next u) : ReceiverKept (currentInput t) u :=
    have ⟨_, hdis, hsus⟩ := nextInputs_run hin hk hrun
    ⟨hquiet k u hk (by rw [run_succ hrun, hstep]), hdis, hsus⟩
  obtain ⟨u, hrun, hu⟩ := run_induct_listed (n := 9 * s.cfg.bitCycles + sampleMid s.cfg)
    (P := fun m t => ∀ k, m = k + 1 → ReceivingAt s.cfg b k t) hc hin (by omega) (by simp) (by
      rintro m t u hm hrun ht ⟨hr, -, -⟩ hstep k hk
      obtain rfl : m = k := by omega
      have hkept := hkept m t u (by omega) hrun hstep
      cases m with
      | zero =>
        cases hrun
        obtain ⟨inp, hinp, hline⟩ := Option.map_eq_some_iff.mp hedge
        exact receivingAt_zero rfl hon hidle hprev hstep hr hkept (by rwa [currentInput_of_listed hinp])
      | succ k =>
        refine (ht k rfl).step (by omega) hstep hr hkept fun n hn hoffset => ?_
        obtain ⟨inp, hinp, hline⟩ := Option.map_eq_some_iff.mp (hsamples n hn)
        rwa [currentInput_run hrun (hoffset ▸ hinp)])
  obtain ⟨hcfg, -, -⟩ := run_own_fields _ hrun
  obtain ⟨t, hstep⟩ := step_total (hcfg ▸ hc)
  obtain ⟨hr, -, -⟩ := nextInputs_run hin (by omega) hrun
  have hlast := hu (9 * s.cfg.bitCycles + sampleMid s.cfg - 1) (by omega)
  exact ⟨u, t, hrun, hstep, hlast.rxBusy, hlast.delivers (by omega) hstep hr⟩

/-- Settles O53: a line that carries the frame falls at its start bit and shows bit `n` in the middle of bit time
`n + 1`. -/
theorem wellFormedFrameIsReceivedExactly : Obligations.WellFormedFrameIsReceivedExactly := by
  intro s b hc hon hidle hprev hin hquiet hline
  obtain ⟨-, -, hmid⟩ := derived_bounds hc
  have hedge : (s.inputs[0]?).map Input.rxLine = some false := by
    rw [hline 0 (by omega), getLsbD_frameBits, Nat.zero_div, if_pos rfl]
  have hsamples (n : Nat) (hn : n < 8) :
      (s.inputs[(n + 1) * s.cfg.bitCycles + sampleMid s.cfg]?).map Input.rxLine = some (b.getLsbD n) := by
    have hbit : (n + 1) * s.cfg.bitCycles ≤ 8 * s.cfg.bitCycles := Nat.mul_le_mul_right _ hn
    have hidx := ((offset_iff hmid).mpr rfl : ((n + 1) * s.cfg.bitCycles + sampleMid s.cfg) / _ = n + 1 ∧ _).1
    rw [hline _ (by omega), hidx, getLsbD_frameBits, if_neg n.succ_ne_zero, if_pos (by omega), Nat.add_sub_cancel]
  obtain ⟨u, t, hrun, hstep, -, -, hdata, hirq⟩ :=
    frameIsAssembledFromItsEightSamples s b hc hon hidle hprev hin hquiet hedge hsamples
  exact ⟨u, t, hrun, hstep, hdata, hirq.mpr⟩

end Machine
end Sys2Proof
end

section
/-!
PROOFS. The order of the sub-steps where events and the command of one cycle meet (R103, R261), and the dispatch of the
two slots at a tick (R130, R135): each is read off the rules for what a cycle does to the transmitter, the receiver, the
strobes and the PWM.
-/

namespace Sys2Proof
namespace Machine

variable {s t : State} {b : Byte}

/-! ### Coincident writes (R103, R261) -/

section Step
variable (h : step s = .next t) (hr : (currentInput s).rst = false)
include h hr

theorem step_provTake_iff : t.provTake = true ↔ s.irEn = true ∧ s.txpReg = true ∧ periodicDue s := by
  rw [step_provTake h hr]
  exact engines_provTake

theorem step_quiet_of_no_provider (hoff : s.txpReg = false) : t.provTake = false := by
  rw [Bool.eq_false_iff, ne_eq, step_provTake_iff h hr]
  simp [hoff]

/-- The provider's byte that the periodic step pushes stands, whatever the command of the cycle. -/
theorem step_of_periodic_push (hacts : t.provTake = true) (hidle : s.txBusy = false) :
    t.txBusy = true ∧ t.txData = (currentInput s).provByte := by
  obtain ⟨hir, -, -⟩ := (step_provTake_iff h hr).mp hacts
  rw [step_provTake h hr] at hacts
  have hfree : (received (currentInput s) (consumeInput s)).txBusy = false :=
    (received_sameTransmitter _ s).txBusy.trans (by rw [txAdvance_idle hidle, hidle])
  have hlink := engines_link_of_provTake hacts
  rw [txPush_accepted (by simpa using hir) (by simpa using hfree)] at hlink
  have hcmd := commandStep_sameTransmitter (step_without_reset h hr) (.inl hlink.txBusy)
  exact ⟨hcmd.txBusy.trans hlink.txBusy, hcmd.txData.trans hlink.txData⟩

/-- Any command but `RX_ENABLE` leaves off a receiver that `RxHwDisable` turned off in its cycle. -/
theorem step_rxHwEn_off (hen : ¬presents (currentInput s) .rxEnable) (hdis : ¬ReceiverKept (currentInput s) t) :
    t.rxHwEn = false := by
  rw [Bool.eq_false_iff, ne_eq, step_rxHwEn h hr]
  exact fun hon => hon.elim hen fun hon => hdis hon.2

end Step

/-- A push of `TRANSMIT` meets the transmitter as `TxAdvance` left it where no periodic push comes between (R188). -/
theorem step_of_transmit (hc : s.cfg.wellFormed = true) (hr : (currentInput s).rst = false)
    (hp : presents (currentInput s) (.transmit b)) (hir : s.irEn = true) (hoff : s.txpReg = false)
    (hidle : (txAdvance s).txBusy = false) :
    step s = .next (startFrame b (engines (currentInput s) (consumeInput s))) := by
  obtain ⟨t, hstep⟩ := step_total hc
  have hquiet := (step_provTake hstep hr).symm.trans (step_quiet_of_no_provider hstep hr hoff)
  have hfree := (engines_sameTransmitter (s := s) (.inr hquiet)).txBusy.trans hidle
  rw [step_of_command hc hr hp, exec_transmit, txPush_accepted (by simpa using hir) hfree]

/-- Settles O56: what a cycle does to the transmitter and to the receiver, at the coincidences of R103. -/
theorem subStepOrderDecidesCoincidentWrites : Obligations.SubStepOrderDecidesCoincidentWrites := by
  intro s hc hr
  obtain ⟨t, hstep⟩ := step_total hc
  refine ⟨fun b hend hir hoff hp => ?transmitAtEnd, fun hend hir hoff hintent hidle hprev hline hv => ?edgeAtEnd,
    fun hend hp => ?suspendAtEnd, fun t hstep hacts hen => ?periodic, fun hend hreg hp => ?deliveredAtDisable,
    fun b hslow hslot hir hprov hidle hp => ?transmitAtPush⟩
  case transmitAtEnd =>
    have hpush := step_of_transmit hc hr hp hir hoff (txAdvance_frame_end_txBusy hend)
    exact ⟨_, hpush, (step_txDone hpush hr).mpr hend, rfl, rfl, rfl, rfl⟩
  case edgeAtEnd =>
    have hno (i : Instr) : ¬presents (currentInput s) i := by simp [hv]
    have hkept : ReceiverKept (currentInput s) t := ⟨step_quiet_of_no_provider hstep hr hoff, hno _, hno _⟩
    obtain ⟨-, -, hedge⟩ := frameStartsOnlyAtAFallingEdge s t hr hstep
    have hen := (step_rxHwEn hstep hr).mpr (.inr ⟨.inr ⟨hend, hintent⟩, hkept⟩)
    exact ⟨t, hstep, (step_txDone hstep hr).mpr hend, hen,
      hedge hidle ⟨hir, .inr ⟨hend, hintent⟩⟩ hprev hline hkept.quiet (hno _) (hno _)⟩
  case suspendAtEnd =>
    have hen : ¬presents (currentInput s) .rxEnable := by simp [presents_iff hp]
    exact ⟨t, hstep, (step_txDone hstep hr).mpr hend, step_rxHwEn_off hstep hr hen fun hkept => hkept.not_rxSuspend hp,
      step_rxIntent hstep hr hen (by simp [presents_iff hp])⟩
  case periodic =>
    exact step_rxHwEn_off hstep hr hen fun hkept => absurd (hkept.quiet.symm.trans hacts) (by simp)
  case deliveredAtDisable =>
    have hen : ¬presents (currentInput s) .rxEnable := by simp [presents_iff hp]
    exact ⟨t, hstep, (step_irqRx hstep hr).mpr ⟨hend, hreg⟩, (step_of_byteCompletes hstep hr hend).2,
      step_rxHwEn_off hstep hr hen fun hkept => hkept.not_rxDisable hp⟩
  case transmitAtPush =>
    have hacts := (step_provTake_iff hstep hr).mpr ⟨hir, hprov, .inr ⟨hslow, hslot⟩⟩
    exact ⟨t, hstep, step_of_periodic_push hstep hr hacts hidle⟩

/-! ### Dispatch at a tick (R130, R135) -/

/-- Settles O43: the two cases of `FastTick`, and in a slow tick's cycle what the slots' handlers have left. -/
theorem bothSlotsAreServedFastThenSlow : Obligations.BothSlotsAreServedFastThenSlow := by
  refine ⟨fun s prov hs => ?slow, fun s prov hf hs => ?fast, fun s prov hf => ?none, fun s hc hs hr => ?_⟩
  case slow =>
    rw [tickAdvance_fast hs.1, fastTick_slow (s := setBaseCnt 0 (setPreCnt 0 s)) hs.2, slowTick, countSlow_slowSlot,
      invoke_slowSlot]
    rfl
  case fast =>
    rw [tickAdvance_fast hf, fastTick_no_slow (s := setBaseCnt 0 (setPreCnt 0 s)) fun hw => hs ⟨hf, hw⟩]
    rfl
  case none =>
    obtain ⟨pre, base, e⟩ := tickAdvance_no_tick hf prov
    exact ⟨pre, base, e⟩
  obtain ⟨t, hstep⟩ := step_total hc
  refine ⟨fun hfast hslow => ⟨t, hstep, ?pwm⟩, fun hfast hslow hir hprov hidle => ⟨t, hstep, ?irtx⟩,
    fun h hfast hp => ⟨_, step_of_command hc hr hp, ?ext, rfl⟩⟩
  case pwm =>
    have hcalls : pwmCalls s = 2 := by simp [pwmCalls_of_slowTick hs, hfast, hslow]
    rw [(step_pwm hstep hr).1, hcalls, pwmSteps_succ, pwmSteps_succ, pwmSteps_zero, pwmStep_pwmCnt, pwmStep_pwmCnt]
    omega
  case irtx =>
    have hacts := (step_provTake_iff hstep hr).mpr ⟨hir, hprov, .inr ⟨hs, hslow⟩⟩
    exact ⟨hacts, step_of_periodic_push hstep hr hacts hidle⟩
  case ext => exact engines_irqFast.mpr ⟨hs.1, hfast⟩

end Machine
end Sys2Proof
end

section
/-!
PROOFS. The statements of `spec/10_state.md` about the invariant at reset and under a step (section 7), the serial line
(R55) and the modulated signal (R167).
-/

namespace Sys2Proof
namespace Machine

variable {s : State}

/-- Settles O39: the sub-steps of R100 each hand the invariant on. -/
theorem everyStepKeepsTheInvariant : Obligations.EveryStepKeepsTheInvariant := fun _ _ => State.Inv.step

/-- Settles O40: the reset values, with the inputs and the step count of a run's start. -/
theorem resetStateMeetsTheInvariant : Obligations.ResetStateMeetsTheInvariant :=
  ⟨inv_resetWith (by decide) [] 0, fun _ ins hc => inv_resetWith hc ins 0⟩

/-- R55 on a frame in flight. -/
theorem txLine_busy (h : s.txBusy = true) : txLine s =
    if s.txIdx = 0 then false else if s.txIdx ≤ 8 then s.txData.getLsbD (s.txIdx - 1) else true := by
  rw [txLine, if_neg (by simp [h])]

/-- Settles O35: the cases of R55; an uninitialised block has no frame in flight (law 3 of R36). -/
theorem serialLineShowsTheBitInFlight : Obligations.SerialLineShowsTheBitInFlight := by
  refine fun s => ⟨txLine_idle, fun hb h0 => ?start, fun hb h1 h8 => ?data, fun hb h9 => ?stop, fun hlaws hoff => ?off⟩
  case start => rw [txLine_busy hb, if_pos h0]
  case data => rw [txLine_busy hb, if_neg (by omega), if_pos h8]
  case stop => rw [txLine_busy hb, if_neg (by omega), if_neg (by omega)]
  case off =>
    obtain ⟨-, -, hidle, -⟩ := hlaws.irEn_off hoff
    exact txLine_idle hidle

/-- Settles O37: the gating of R167; without `ir_en` the carrier stands at 0 (law 3 of R36). -/
theorem modulatedSignalIsCarrierDuringMark : Obligations.ModulatedSignalIsCarrierDuringMark := by
  refine fun s => ⟨fun hmark => ?mark, fun hspace => ?space, fun hlaws hoff => ?off⟩
  case mark => rw [irMod, hmark, Bool.and_true]
  case space => rw [irMod, hspace, Bool.and_false]
  case off =>
    obtain ⟨-, hlow, -, -⟩ := hlaws.irEn_off hoff
    rw [irMod, hlow, Bool.false_and]

end Machine
end Sys2Proof
end

section
/-!
PROOFS. The statements of `spec/30_encoding.md` about the opcode map of R83. Every row's `match` and `mask` are words
of an opcode byte, which must be met whole, and an operand byte, whose masked bits must be 0; so a word selects a row by
its opcode, and each format's must-be-0 bits are those its mask keeps.
-/

namespace Sys2Proof

variable {op k : Byte} {w : Word} {i j : Instr}

/-! ### Rows in bytes -/

theorem wordOf_inj {op' k' : Byte} : wordOf op k = wordOf op' k' ↔ op = op' ∧ k = k' := by
  refine ⟨fun h => ⟨?_, ?_⟩, fun ⟨hop, hk⟩ => by rw [hop, hk]⟩
  · simpa using congrArg opField h
  · simpa using congrArg kField h

theorem wordOf_and_wordOf (op k op' k' : Byte) : wordOf op k &&& wordOf op' k' = wordOf (op &&& op') (k &&& k') := by
  simp only [wordOf]
  exact BitVec.and_append

/-- What the table's rows share: `match` has no operand bits, `mask` keeps the whole opcode. -/
theorem opcodeTable_bytes : ∀ r ∈ opcodeTable,
    r.pattern = wordOf (opField r.pattern) 0#8 ∧ r.mask = wordOf 0xFF#8 (kField r.mask) := by decide

/-- A word selects a row by its opcode and by operand bits that are 0. -/
theorem selectedBy_wordOf {r : OpcodeRow} (hr : r ∈ opcodeTable) :
    r.selectedBy (wordOf op k) = true ↔ op = opField r.pattern ∧ k &&& kField r.mask = 0#8 := by
  obtain ⟨hpattern, hmask⟩ := opcodeTable_bytes r hr
  have hop : op &&& 0xFF#8 = op := BitVec.and_allOnes
  rw [OpcodeRow.selectedBy, beq_iff_eq, hmask, wordOf_and_wordOf, hop, hpattern, wordOf_inj, opField_wordOf,
    kField_wordOf]

/-- The opcodes of the rows are the listed ones, each in one row. -/
theorem opcodeTable_op_mem : ∀ r ∈ opcodeTable, opField r.pattern ∈ opcodes := by decide

theorem opcodeTable_op_inj :
    ∀ r ∈ opcodeTable, ∀ r' ∈ opcodeTable, opField r.pattern = opField r'.pattern → r = r' := by decide

theorem rowOf_mem (i : Instr) : rowOf i ∈ opcodeTable := by
  cases i <;> simp [opcodeTable, rowOf]

theorem rowOf_eq_of_op (h : opField (rowOf i).pattern = opField (rowOf j).pattern) : rowOf i = rowOf j :=
  opcodeTable_op_inj _ (rowOf_mem i) _ (rowOf_mem j) h

/-! ### The rows of each format (R82): opcode and must-be-0 bits -/

theorem rowOf_opsZ : ∀ e ∈ opsZ, opField (rowOf e.2).pattern = e.1 ∧ kField (rowOf e.2).mask = 0xFF#8 := by decide

theorem rowOf_opsH (a : HandlerId) :
    ∀ e ∈ opsH, opField (rowOf (e.2 a)).pattern = e.1 ∧ kField (rowOf (e.2 a)).mask = 0xFC#8 := by
  cases a <;> decide

theorem rowOf_setChannel (c : Channel) (on : Bool) :
    rowOf (.setChannel c on) = ⟨"SET_CHANNEL", wordOf 0x21#8 0#8, wordOf 0xFF#8 0x7C#8⟩ := rfl

theorem rowOf_opsP (p : Bool) :
    ∀ e ∈ opsP, opField (rowOf (e.2 p)).pattern = e.1 ∧ kField (rowOf (e.2 p)).mask = 0xFE#8 := by
  cases p <;> decide

theorem rowOf_opsB (b : Byte) : ∀ e ∈ opsB, opField (rowOf (e.2 b)).pattern = e.1 := by
  simp [opsB, rowOf, opField]

theorem highSix_of_and : ∀ k : Byte, k &&& 0xFC#8 = 0#8 → k.extractLsb' 2 6 = 0#6 := by decide

theorem highSeven_of_and : ∀ k : Byte, k &&& 0xFE#8 = 0#8 → k.extractLsb' 1 7 = 0#7 := by decide

theorem midFive_of_and : ∀ k : Byte, k &&& 0x7C#8 = 0#8 → k.extractLsb' 2 5 = 0#5 := by decide

/-! ### A word that selects a row -/

/-- The channel bits of a word are those of its operand byte. -/
theorem kField_extractLsb'_channel (w : Word) : (kField w).extractLsb' 0 2 = w.extractLsb' 0 2 := by
  apply BitVec.eq_of_getLsbD_eq
  intro n hn
  simp [kField]

/-- It decodes to a command of that row, by the format of its opcode; for `SET_CHANNEL` if its channel exists. -/
theorem decode_of_selectedBy (h : (rowOf i).selectedBy (wordOf op k) = true)
    (hchannel : (rowOf i).mnemonic = "SET_CHANNEL" → k.extractLsb' 0 2 ≠ 3#2) :
    ∃ j, decode (wordOf op k) = .command j ∧ rowOf j = rowOf i := by
  obtain ⟨hop, hk⟩ := (selectedBy_wordOf (rowOf_mem i)).mp h
  cases opFormat op with
  | z hfmt =>
    obtain ⟨hop', hmask⟩ := rowOf_opsZ _ hfmt
    have hrow := rowOf_eq_of_op (hop'.trans hop)
    rw [← hrow, hmask] at hk
    have hzero : k = 0#8 := BitVec.and_allOnes.symm.trans hk
    exact ⟨_, (decode_opsZ hfmt).trans (if_pos hzero), hrow⟩
  | h hfmt =>
    obtain ⟨hop', hmask⟩ := rowOf_opsH (HandlerId.ofBits (k.extractLsb' 0 2)) _ hfmt
    have hrow := rowOf_eq_of_op (hop'.trans hop)
    rw [← hrow, hmask] at hk
    exact ⟨_, decode_opsH_of_le hfmt (highSix_eq_zero_iff.mp (highSix_of_and k hk)), hrow⟩
  | c hfmt =>
    subst hfmt
    have hrow : rowOf (.setChannel (k.extractLsb' 0 2) (k.getLsbD 7)) = rowOf i :=
      rowOf_eq_of_op (by rw [← hop, rowOf_setChannel, opField_wordOf])
    rw [← hrow, rowOf_setChannel, kField_wordOf] at hk
    have hlegal := hchannel (by rw [← hrow, rowOf_setChannel])
    exact ⟨_, decode_setChannel_op_of_legal ⟨midFive_of_and k hk, hlegal⟩, hrow⟩
  | p hfmt =>
    obtain ⟨hop', hmask⟩ := rowOf_opsP (k.getLsbD 0) _ hfmt
    have hrow := rowOf_eq_of_op (hop'.trans hop)
    rw [← hrow, hmask] at hk
    exact ⟨_, decode_opsP_of_le hfmt (highSeven_eq_zero_iff.mp (highSeven_of_and k hk)), hrow⟩
  | b hfmt => exact ⟨_, decode_opsB hfmt, rowOf_eq_of_op ((rowOf_opsB k _ hfmt).trans hop)⟩
  | unlisted hfmt => exact absurd (hop ▸ opcodeTable_op_mem _ (rowOf_mem i)) hfmt

/-- The word that `Encode` writes selects its command's row. -/
theorem encode_selects_row (i : Instr) : (rowOf i).selectedBy (encode i) = true := by
  cases i with
  | nop => exact Laws.EncodeMatchesRow.nop
  | tickInit => exact Laws.EncodeMatchesRow.tickInit
  | regFast h => exact Laws.EncodeMatchesRow.regFast h
  | regSlow h => exact Laws.EncodeMatchesRow.regSlow h
  | lightInit => exact Laws.EncodeMatchesRow.lightInit
  | setChannel c on => exact Laws.EncodeMatchesRow.setChannel c on
  | allOff => exact Laws.EncodeMatchesRow.allOff
  | setBright b => exact Laws.EncodeMatchesRow.setBright b
  | irInit => exact Laws.EncodeMatchesRow.irInit
  | rxEnable => exact Laws.EncodeMatchesRow.rxEnable
  | rxDisable => exact Laws.EncodeMatchesRow.rxDisable
  | rxSuspend => exact Laws.EncodeMatchesRow.rxSuspend
  | regRxh p => exact Laws.EncodeMatchesRow.regRxh p
  | regTxp p => exact Laws.EncodeMatchesRow.regTxp p
  | txStart => exact Laws.EncodeMatchesRow.txStart
  | txStop => exact Laws.EncodeMatchesRow.txStop
  | transmit b => exact Laws.EncodeMatchesRow.transmit b

namespace Machine

/-- Settles O3: a word that decodes is the encoding of its command, and a row is selected by its opcode. -/
theorem decodedWordSelectsItsTableRow : Obligations.DecodedWordSelectsItsTableRow := by
  refine ⟨fun w i hw => encode_of_decode hw ▸ encode_selects_row i, fun w i hsel hchannel => ?decodes,
    fun w r r' hr hr' hsel hsel' => ?unique⟩
  case decodes =>
    rw [← wordOf_fields w] at hsel ⊢
    refine decode_of_selectedBy hsel fun hname => ?_
    rw [kField_extractLsb'_channel]
    exact hchannel hname
  case unique =>
    rw [← wordOf_fields w] at hsel hsel'
    obtain ⟨hop, -⟩ := (selectedBy_wordOf hr).mp hsel
    obtain ⟨hop', -⟩ := (selectedBy_wordOf hr').mp hsel'
    exact opcodeTable_op_inj r hr r' hr' (hop.symm.trans hop')

/-- Settles O4, by evaluating the decoder on each word. -/
theorem wordsWrittenFromTheTableDecode : Obligations.WordsWrittenFromTheTableDecode :=
  ⟨rfl, rfl, rfl, rfl, rfl, rfl, rfl⟩

end Machine
end Sys2Proof
end

section
/-!
PROOFS. The statements of `spec/40_step.md` and `spec/20_memory.md` that hold of every command or of every cycle: both
complete, a presented word is the command of the next cycle, a configuration outside R5 is refused, strobes are not read,
and which fields a command and the engines leave as they were (R69, R105).
-/

namespace Sys2Proof
namespace Machine

variable {s t u : State} {inp : Input} {i j : Instr}

/-! ### Cycles -/

/-- Settles O30, by the total case analysis of `exec`. -/
theorem everyCommandCompletes : Obligations.EveryCommandCompletes := exec_total

/-- Settles O8: a step is total within R5, and moves the model's own fields alike whatever it does. -/
theorem everyCycleCompletes : Obligations.EveryCycleCompletes := by
  intro s hc
  obtain ⟨t, hstep⟩ := step_total hc
  exact ⟨t, hstep, step_own_fields hstep⟩

theorem cfg_wellFormed_iff {c : Cfg} : c.wellFormed = true ↔
    76000 ≤ c.fClk ∧ 1 ≤ c.tickPrescale ∧ 1 ≤ c.fastCounts ∧ 1 ≤ c.slowDiv ∧ 2 ≤ c.bitCycles := by
  simp [Cfg.wellFormed, and_assoc]

/-- Settles O9: within R5 a step gives a next state, outside it is refused. -/
theorem configurationOutsideConstraintsIsRefused : Obligations.ConfigurationOutsideConstraintsIsRefused := by
  intro s
  rw [← cfg_wellFormed_iff]
  constructor
  · intro hrefused hc
    obtain ⟨t, hstep⟩ := step_total hc
    cases hstep.symm.trans hrefused
  · exact fun hc => if_neg hc

/-- The 16 table bits of a word are the word (log entry 14). -/
theorem tableWord_toNat (w : Word) : tableWord 16 w.toNat = w := by
  rw [tableWord, Nat.mod_eq_of_lt w.isLt, BitVec.ofNat_toNat, BitVec.setWidth_eq]

/-- A loaded word is presented in the next cycle, without reset. -/
theorem currentInput_loadWord (w : Word) (s : State) : ∃ inp, currentInput (loadWord w s) = presentWord w inp := by
  cases hins : s.inputs with
  | nil => exact ⟨idleInput, by simp [loadWord, hins, currentInput]⟩
  | cons inp rest => exact ⟨inp, by simp [loadWord, hins, currentInput]⟩

/-- Settles O7: the loaded word is the command's own, which decodes back to it. -/
theorem placedWordIsPresentedInTheNextCycle : Obligations.PlacedWordIsPresentedInTheNextCycle := by
  intro s i hi
  obtain ⟨inp, hinp⟩ := currentInput_loadWord (encode i) s
  rw [State.withFetchWord, tableWord_toNat, hinp]
  exact ⟨⟨rfl, decode_encode i hi⟩, rfl⟩

/-- The strobes are cleared before anything else (R102), and `ResetState` does not keep them. -/
theorem stepWith_clearStrobes (inp : Input) (s : State) : stepWith inp (clearStrobes s) = stepWith inp s := by
  have hreset : resetBlock (clearStrobes s) = resetBlock s := rfl
  have hengines : engines inp (clearStrobes s) = engines inp s := rfl
  rw [stepWith, stepWith, hreset, hengines]

/-- Settles O13: nor does the choice of the inputs, or the check of the configuration, read a strobe. -/
theorem strobesAreClearedFirstAndNeverRead : Obligations.StrobesAreClearedFirstAndNeverRead := by
  intro s
  have hconsume : consumeInput (clearStrobes s) = clearStrobes (consumeInput s) := rfl
  have hinput : currentInput (clearStrobes s) = currentInput s := rfl
  rw [step, step, cycleStep, cycleStep, hconsume, hinput, stepWith_clearStrobes, clearStrobes_cfg]

/-! ### What a command and what the engines leave unchanged -/

/-- Settles O31: dividers, PWM, carrier, reception, strobes and the model's own fields, each by its rule. -/
theorem commandsLeaveEngineFieldsUnchanged : Obligations.CommandsLeaveEngineFieldsUnchanged := by
  intro i s t h
  obtain ⟨hpre, hbase, hslow⟩ := exec_dividers h
  obtain ⟨hpwm, hgate⟩ := exec_pwm h
  have hwave := exec_wave h
  obtain ⟨hprev, hidx, hcnt, hshift, hdata⟩ := exec_sameReception h
  obtain ⟨hevf, hevs, hirqf, hirqs, hirqr, hprov, hdone⟩ := exec_strobes h
  exact ⟨hpre, hbase, hslow, hpwm, hgate, congrArg Wave.count hwave, congrArg Wave.level hwave, hprev, hidx, hcnt,
    hshift, hdata, hevf, hevs, hirqf, hirqs, hirqr, hprov, hdone, exec_own_fields h⟩

/-- Settles O32, by the frame of each sub-step. -/
theorem enginesLeaveHostSettingsUnchanged : Obligations.EnginesLeaveHostSettingsUnchanged := by
  rintro s inp _ rfl
  simp [engines]

/-! ### Commands in a row -/

/-- Writing a bit twice writes it once. -/
theorem writeBit_again {w : Nat} (v : BitVec w) (n : Nat) (p : Bool) :
    writeBit (writeBit v n p) n p = writeBit v n p := by
  apply BitVec.eq_of_getLsbD_eq
  intro l _
  rw [getLsbD_writeBit]
  split
  next hl => rw [getLsbD_writeBit, if_pos hl]
  next => rfl

/-- A pushed byte occupies the transmitter, so a second push of it is dropped (R188). -/
theorem txPush_again (b : Byte) (s : State) : txPush b (txPush b s) = txPush b s := by
  by_cases hfree : s.irEn = true ∧ s.txBusy = false
  · rw [txPush_accepted hfree.1 hfree.2]
    exact txPush_dropped (.inr rfl)
  · have hdropped : txPush b s = s := if_neg hfree
    rw [hdropped, hdropped]

/-- Settles O33: a command that sets fields to fixed values finds them so; the other two are a bit and a push. -/
theorem commandsAreIdempotent : Obligations.CommandsAreIdempotent := by
  intro i s t h
  cases i with
  | setChannel c on =>
    by_cases hc : c = 3#2
    · subst hc
      cases h
      rfl
    · rw [exec_setChannel hc] at h ⊢
      cases h
      exact congrArg (fun m => Host.Outcome.next { s with mask := m }) (writeBit_again s.mask c.toNat on)
  | transmit b =>
    rw [exec_transmit] at h ⊢
    cases h
    rw [txPush_again]
  | _ => cases h; rfl

/-- The three initialisation commands as one function: which enables each sets (R121, R141, R161). -/
def initialised (i : Instr) (s : State) : State :=
  { s with tickEn := true, lightEn := s.lightEn || decide (i = .lightInit),
           fastSlot := if i = .lightInit then .hPwm else s.fastSlot, irEn := s.irEn || decide (i = .irInit) }

theorem exec_initialisation (hi : i ∈ [Instr.tickInit, .lightInit, .irInit]) (s : State) :
    exec i s = .next (initialised i s) := by
  simp only [List.mem_cons, List.not_mem_nil, or_false] at hi
  obtain rfl | rfl | rfl := hi
  · simp [exec, execTickInit, startTicks, initialised]
  · simp [exec, execLightInit, startTicks, initialised]
  · simp [exec, execIrInit, startTicks, initialised]

theorem initialised_comm (i j : Instr) (s : State) :
    initialised i (initialised j s) = initialised j (initialised i s) := by
  simp only [initialised, State.mk.injEq, Bool.or_right_comm, true_and, and_true]
  split_ifs <;> rfl

/-- Settles O34: each initialisation sets its own enables, and the slot it may write is written by one alone. -/
theorem initialisationsCommute : Obligations.InitialisationsCommute := by
  intro i j s t u hi hj ht hu
  rw [exec_initialisation hi] at ht
  rw [exec_initialisation hj] at hu
  cases ht
  cases hu
  exact ⟨_, exec_initialisation hj s, by rw [exec_initialisation hi, initialised_comm]⟩

end Machine
end Sys2Proof
end

section
/-!
PROOFS. The statements of files 41 to 44 of `spec/` about single commands: the whole next state of each (R121 to R123,
R143, R161, R176 to R178, R181, R182); and the first PWM cycle after the gate was closed at count 0 (file 42, section 2).
-/

namespace Sys2Proof
namespace Machine

variable {s : State}

theorem exec_tickInit (s : State) : exec .tickInit s = .next { s with tickEn := true } := rfl

theorem exec_irInit (s : State) : exec .irInit s = .next { s with tickEn := true, irEn := true } := rfl

/-- `TickInit` is idempotent (R121). -/
theorem setTickEn_of_on (h : s.tickEn = true) : { s with tickEn := true } = s :=
  congrArg (fun on => { s with tickEn := on }) h.symm

/-- Settles O17: one field each, and the enable is among those no command clears. -/
theorem tickSchedulerCommandsComplete : Obligations.TickSchedulerCommandsComplete := by
  refine fun s => ⟨exec_tickInit s, fun hon => ?again, fun _ => rfl, fun _ => rfl, fun i t h hon => ?kept⟩
  case again => rw [exec_tickInit, setTickEn_of_on hon]
  case kept =>
    obtain ⟨hkeep, -⟩ := exec_keeps_enables h
    exact hkeep hon

/-- Settles O20: the decoder answers only well-formed commands, and channel 3 is not. -/
theorem setChannelWithChannelThreeFaults : Obligations.SetChannelWithChannelThreeFaults := by
  refine ⟨fun w on hw => ?_, fun _ _ => rfl⟩
  have hwf := decode_wellFormed hw
  simp [Instr.wellFormed] at hwf

/-- Settles O23: the two enables it sets, neither of which a command clears. -/
theorem irInitCompletes : Obligations.IrInitCompletes := by
  refine ⟨rfl, fun k => (isReserved_opsZ (i := .irInit) (by simp [opsZ])).mpr, exec_irInit, fun s ht hon => ?again,
    fun i s t h hon => ?kept⟩
  case again =>
    have hsame : { s with tickEn := true, irEn := true } = s :=
      (congrArg (fun on => { s with tickEn := true, irEn := on }) hon.symm).trans (setTickEn_of_on ht)
    rw [exec_irInit, hsame]
  case kept =>
    obtain ⟨-, -, hkeep, -⟩ := exec_keeps_enables h
    exact hkeep hon

/-- Settles O24: the fields of the three commands; without `ir_en` the engine part of `RxAdvance` is off, and without
intent the transmit-ready handler is. -/
theorem receiveEnableCommandsComplete : Obligations.ReceiveEnableCommandsComplete := by
  refine fun s => ⟨rfl, rfl, rfl, fun line hoff => ?engine, fun hno => ?handler⟩
  case engine =>
    have hengine : rxEngine line s = s := rxEngine_off (by simp [hoff])
    rw [rxAdvance, hengine]
    rfl
  case handler => exact if_neg (by simp [hno])

/-- Settles O27: `TX_START` and `TX_STOP` are writes of the slow slot. -/
theorem periodicLoopCommandsComplete : Obligations.PeriodicLoopCommandsComplete := fun _ => ⟨rfl, rfl, rfl⟩

/-- Settles O47: below the wrap only the brightness can write the gate, and it closes it; the hundredth call wraps. -/
theorem gateFirstOpensAtTheHundredthPwmStep : Obligations.GateFirstOpensAtTheHundredthPwmStep := by
  intro s hcnt hgate hbright
  refine ⟨fun k hk => ⟨?_, ?_⟩, ?_, ?_⟩
  · rw [pwmSteps_gate_within (by omega), hgate, ite_self]
  · rw [pwmSteps_pwmCnt_within (by omega), hcnt, Nat.zero_add]
  · have hopen := (pwmSteps_gate_at_wrap (s := s) (by omega)).mpr hbright
    rwa [hcnt] at hopen
  · have hwrap := pwmSteps_pwmCnt_at_wrap (s := s) (by omega)
    rwa [hcnt] at hwrap

end Machine
end Sys2Proof
end
